-- ==== Sys2Proof/Word.lean ====
section
/-! DEFINITION. The word types of the block: every value is an unsigned bit vector of a stated width
(00_scope.md R5, R6). -/

namespace Sys2Proof

/-- A byte of a MIDI message, a color channel, a controller number or a value operand (R5: `VALUE_W`, `CTRL_W`; R6). -/
abbrev Byte := BitVec 8

/-- Half a channel (40_encoder.md R62). -/
abbrev Nibble := BitVec 4

/-- A 7-bit group of the SysEx payload, or the 7-bit value field of a CC message that is sent (R42, R50). -/
abbrev Septet := BitVec 7

/-- The color operand of SEL, CCCOL and SXCOL (R5: `COLOR_W = 28`). -/
abbrev Color := BitVec 28

/-- A command word (R40: `CMD_W = 32`) or a log record (R46: `LOG_W = 32`). -/
abbrev Word := BitVec 32

/-- The three bytes of a CC message read as one number, byte 0 at bits 23:16 (opcode table, `MSG_CC`). -/
abbrev CcWord := BitVec 24

/-- The eight bytes of a SysEx frame read as one number, byte 0 at bits 63:56 (opcode table, `MSG_SYSEX`). -/
abbrev SxWord := BitVec 64

end Sys2Proof
end

