-- ==== Sys2Proof/Config.lean ====
section
/-! DEFINITION. What is fixed when the block is built (00_scope.md R4, R5), and the free values of the
signal-level binding (93_implementation_defined.md U7). -/

namespace Sys2Proof

/-- The eleven configuration constants (R4). They are no state: no command reads them back or writes them
(10_state.md R14, R18). -/
structure Config where
  /-- `CC_STATUS`: first byte of every CC message. -/
  ccStatus : Byte
  /-- `CC_R_LO`: controller number of red's low nibble. -/
  ccRLo : Byte
  /-- `CC_R_HI`: controller number of red's high nibble. -/
  ccRHi : Byte
  /-- `CC_G_LO`: controller number of green's low nibble. -/
  ccGLo : Byte
  /-- `CC_G_HI`: controller number of green's high nibble. -/
  ccGHi : Byte
  /-- `CC_B_LO`: controller number of blue's low nibble. -/
  ccBLo : Byte
  /-- `CC_B_HI`: controller number of blue's high nibble. -/
  ccBHi : Byte
  /-- `SYSEX_START`: first byte of the SysEx frame. -/
  sysexStart : Byte
  /-- `SYSEX_MANUFACTURER_ID`: second byte of the SysEx frame. -/
  sysexManufacturerId : Byte
  /-- `SYSEX_COMMAND`: third byte of the SysEx frame. -/
  sysexCommand : Byte
  /-- `SYSEX_END`: last byte of the SysEx frame. -/
  sysexEnd : Byte
  deriving DecidableEq, Repr

/-- The default `Config` (R4's table). -/
def Config.default : Config :=
  { ccStatus := 0xB0#8
    ccRLo := 101#8
    ccRHi := 100#8
    ccGLo := 103#8
    ccGHi := 102#8
    ccBLo := 105#8
    ccBHi := 104#8
    sysexStart := 0xF0#8
    sysexManufacturerId := 100#8
    sysexCommand := 0x01#8
    sysexEnd := 0xF7#8 }

/-- The two parameters of R5 that a model may take as arguments. -/
structure Params where
  /-- `RESET_ENABLED`: the value of `enabled` after reset (92_eei_decisions.md D16). -/
  resetEnabled : Bool
  /-- `DIRECT_COMMANDS`: whether CCCOL, SXCOL and VCC are accepted (92_eei_decisions.md D5). -/
  directCommands : Bool
  deriving DecidableEq, Repr

/-- The default parameters (R5). -/
def Params.default : Params :=
  { resetEnabled := true
    directCommands := true }

/-- `midi_data` in a cycle with `midi_valid = 0` (R36, U7: any value). DESIGN CHOICE (log 9), safe: a free value. -/
opaque Config.freeMidiData : Nat → Byte

/-- `midi_sop` in a cycle with `midi_valid = 0` (R36, U7: any value). DESIGN CHOICE (log 9), safe: a free value. -/
opaque Config.freeMidiSop : Nat → Bool

/-- `midi_eop` in a cycle with `midi_valid = 0` (R36, U7: any value). DESIGN CHOICE (log 9), safe: a free value. -/
opaque Config.freeMidiEop : Nat → Bool

/-- `log_rec` in a cycle with `log_valid = 0` (R37, U7: any value). DESIGN CHOICE (log 9), safe: a free value. -/
opaque Config.freeLogRec : Nat → Word

/-- `midi_valid` before the first reset edge (R108, U7). DESIGN CHOICE (log 9), safe: a free value. -/
opaque Config.freeMidiValid : Nat → Bool

/-- `log_valid` before the first reset edge (R108, U7). DESIGN CHOICE (log 9), safe: a free value. -/
opaque Config.freeLogValid : Nat → Bool

/-- `cmd_ready` before the first reset edge in a cycle with `rst = 0` (R108, U7). DESIGN CHOICE (log 9), safe: a free value. -/
opaque Config.freeCmdReady : Nat → Bool

/-- `enabled_o` before the first reset edge (R108, U7). DESIGN CHOICE (log 9), safe: a free value. -/
opaque Config.freeEnabledO : Nat → Bool

/-- `enabled` after a cycle before the first reset edge (R108). DESIGN CHOICE (log 9), safe: a free value. -/
opaque Config.freeEnabled : Nat → Bool

end Sys2Proof
end

