-- ==== Sys2Proof/Syntax.lean ====
section
/-! DEFINITION. The whole syntax: one constructor per row of the opcode table, and the words a row can be read from. -/

namespace Sys2Proof

/-- One constructor per row of the opcode table: the six commands (`CMD`, R41), the seven CC message patterns
(`MSG_CC`, R42, R43), the SysEx frame (`MSG_SYSEX`, R44), the four log records (`LOG`, R47) and the five pure
operations (`FUNC`, R56). -/
inductive Instr where
  /-- SELNONE: no selection is present (42_transmitter.md R77). -/
  | selnone
  /-- SEL: a selection with a color (R78). -/
  | sel (color : Color)
  /-- SETEN: write the enable flag (R79). -/
  | seten (en : Bool)
  /-- CCCOL: send a color as six CC messages (R80). -/
  | cccol (color : Color)
  /-- SXCOL: send a color as one SysEx frame (R81). -/
  | sxcol (color : Color)
  /-- VCC: validate and send one CC message (R82). -/
  | vcc (ctrl : Byte) (value : Byte)
  /-- CC_R_LO: the message that carries red's low nibble (R43). -/
  | ccRLo (n : Nibble)
  /-- CC_R_HI: the message that carries red's high nibble (R43). -/
  | ccRHi (n : Nibble)
  /-- CC_G_LO: the message that carries green's low nibble (R43). -/
  | ccGLo (n : Nibble)
  /-- CC_G_HI: the message that carries green's high nibble (R43). -/
  | ccGHi (n : Nibble)
  /-- CC_B_LO: the message that carries blue's low nibble (R43). -/
  | ccBLo (n : Nibble)
  /-- CC_B_HI: the message that carries blue's high nibble (R43). -/
  | ccBHi (n : Nibble)
  /-- CC_GENERIC: any other CC message; the value field is 7 bits wide (R42). -/
  | ccGeneric (ctrl : Byte) (value : Septet)
  /-- SYSEX_COLOR: the eight-byte frame with its four data groups (R44). -/
  | sysexColor (d0 d1 d2 d3 : Septet)
  /-- LOG_SEL_CHANGED: the record of a selection (R47). -/
  | logSelChanged
  /-- LOG_CC_SENT: the record of a CC message that was sent (R47). -/
  | logCcSent (ctrl : Byte) (value : Byte)
  /-- LOG_CC_RANGE_ERR: the record of a refused value (R47, R90). -/
  | logCcRangeErr (ctrl : Byte) (value : Byte)
  /-- LOG_SX_SENT: the record of a SysEx frame that was sent (R47). -/
  | logSxSent (color : Color)
  /-- CHAN: channel extraction (40_encoder.md R61). -/
  | chan (color : Color)
  /-- NIB: the nibble split (R62). -/
  | nib (ch : Byte)
  /-- ENCCC: the CC nibble-pair packer (R64). -/
  | enccc (color : Color)
  /-- ENCSX: the SysEx 7-bit-clean packer (R66). -/
  | encsx (color : Color)
  /-- VALID7: the MIDI byte-range validator (41_validator.md R70). -/
  | valid7 (value : Byte)
  deriving DecidableEq, Repr

/-- What a row that has no command word of its own is read from: the bytes of a message (first byte at the most
significant end, as the opcode table numbers them), a log record, or the operand of one of the four combinational
sub-blocks (20_memory.md R39), which have no bit pattern (R56). -/
inductive SubWord where
  /-- A CC message (`MSG_CC`). -/
  | ccMessage (w : CcWord)
  /-- A SysEx frame (`MSG_SYSEX`). -/
  | sysexFrame (w : SxWord)
  /-- A log record (`LOG`). -/
  | logRecord (w : Word)
  /-- The color input of the channel extraction. -/
  | chanIn (color : Color)
  /-- `nib_in` of the nibble packer (R39). -/
  | nibIn (ch : Byte)
  /-- `color` of the CC packer (R39). -/
  | ccPackIn (color : Color)
  /-- `color` of the SysEx packer (R39). -/
  | sxPackIn (color : Color)
  /-- `value` of the validator (R39). -/
  | validIn (value : Byte)
  deriving DecidableEq, Repr

/-- The place an instruction is written: a command word of the command port (R40), or one of the sub-words. -/
inductive Encoded where
  | command (w : Word)
  | sub (u : SubWord)
  deriving DecidableEq, Repr

/-- Why a word is refused. -/
inductive DecodeError where
  /-- The command word's opcode is reserved, or is a direct command of a block built without them (R51, R5). -/
  | reservedOpcode (op : Nibble)
  /-- The 24 bits are no CC message of the default `Config` (R42). -/
  | notCcMessage (w : CcWord)
  /-- The 64 bits are no SysEx frame of the default `Config` (R44). -/
  | notSysexFrame (w : SxWord)
  /-- The 32 bits are no log record: the code is reserved or a payload bit that is always zero is set (R53). -/
  | notLogRecord (w : Word)
  deriving DecidableEq, Repr

end Sys2Proof
end

