-- ==== Sys2Proof/WellFormed.lean ====
section
/-! DEFINITION. Which instructions are well formed: the operands are ones the row's words carry, so that the word of a
well-formed instruction is read back as that instruction. Every command and every pure operation is well formed with any
operand: their widths are the operand types (00_scope.md R5). -/

namespace Sys2Proof

/-- The controller numbers of the six color messages of the default `Config` (30_encoding.md R43). -/
def isColorController (ctrl : Byte) : Bool :=
  ctrl == 101#8 || ctrl == 100#8 || ctrl == 103#8 || ctrl == 102#8 || ctrl == 105#8 || ctrl == 104#8

/-- Whether a CC message has the form of one of the six color rows: a color controller and a value of at most 15 (R43). -/
def isColorForm (ctrl : Byte) (value : Septet) : Bool :=
  isColorController ctrl && value.toNat ≤ 15

/-- Well-formedness. `CC_GENERIC` is the row for the messages that are none of the six color rows (log 5). -/
def WellFormed : Instr → Bool
  | .selnone => true
  | .sel _ => true
  | .seten _ => true
  | .cccol _ => true
  | .sxcol _ => true
  | .vcc _ _ => true
  | .ccRLo _ => true
  | .ccRHi _ => true
  | .ccGLo _ => true
  | .ccGHi _ => true
  | .ccBLo _ => true
  | .ccBHi _ => true
  | .ccGeneric ctrl value => !isColorForm ctrl value
  | .sysexColor _ _ _ _ => true
  | .logSelChanged => true
  | .logCcSent _ _ => true
  | .logCcRangeErr _ _ => true
  | .logSxSent _ => true
  | .chan _ => true
  | .nib _ => true
  | .enccc _ => true
  | .encsx _ => true
  | .valid7 _ => true

end Sys2Proof
end

