-- ==== Sys2Proof/Decode.lean ====
section
/-! DEFINITION. The decoder, total on any word and rejecting by name, and after it the encoder, both written from the
encodings of 30_encoding.md and the opcode table. -/

namespace Sys2Proof

/-- `color = arg[27:0]` of SEL, CCCOL and SXCOL, and the payload of `LOG_SX_SENT` (R40, R47). -/
def colorField (w : Word) : Color := w.extractLsb' 0 28

/-- `ctrl = arg[15:8]` of VCC, and of the payload of `LOG_CC_SENT` and `LOG_CC_RANGE_ERR` (R40, R47, R50). -/
def ctrlField (w : Word) : Byte := w.extractLsb' 8 8

/-- `value = arg[7:0]` of VCC, and of the payload of `LOG_CC_SENT` and `LOG_CC_RANGE_ERR` (R40, R47, R50). -/
def valueField (w : Word) : Byte := w.extractLsb' 0 8

/-- `en = arg[0]` of SETEN (R40). -/
def enField (w : Word) : Bool := w.getLsbD 0

/-- The top four bits: `op` of a command word (R40), `code` of a log record (R46). -/
def topField (w : Word) : Nibble := w.extractLsb' 28 4

/-- Bits 27:16, ignored by VCC (R52) and always zero in the two records of a CC message (R53). -/
def highArgField (w : Word) : BitVec 12 := w.extractLsb' 16 12

/-- A direct command is accepted only by a block built with `DIRECT_COMMANDS` (R5, R75); otherwise its opcode is
treated as a reserved one. -/
def directCommand (prm : Params) (op : Nibble) (i : Instr) : Except DecodeError Instr :=
  if prm.directCommands then .ok i else .error (.reservedOpcode op)

/-- The command decoder: the opcode map of R41 and R75, the operand fields of R40, the ignored bits of R52 and the
reserved opcodes of R51. -/
def decodeCommand (prm : Params) (w : Word) : Except DecodeError Instr :=
  match (topField w).toNat with
  | 0 => .ok .selnone
  | 1 => .ok (.sel (colorField w))
  | 2 => .ok (.seten (enField w))
  | 3 => directCommand prm (topField w) (.cccol (colorField w))
  | 4 => directCommand prm (topField w) (.sxcol (colorField w))
  | 5 => directCommand prm (topField w) (.vcc (ctrlField w) (valueField w))
  | _ => .error (.reservedOpcode (topField w))

/-- The decoder of CC messages (R42, R43; opcode table `MSG_CC`): status byte 0xB0, then the controller, then a value
with bit 7 clear. A message of one of the six color rows is read as that row (log 5). -/
def decodeCcMessage (w : CcWord) : Except DecodeError Instr :=
  if w &&& 0xFF0080#24 = 0xB00000#24 then
    let ctrl := w.extractLsb' 8 8
    let value := w.extractLsb' 0 7
    let n := w.extractLsb' 0 4
    if 15 < value.toNat then .ok (.ccGeneric ctrl value)
    else if ctrl = 101#8 then .ok (.ccRLo n)
    else if ctrl = 100#8 then .ok (.ccRHi n)
    else if ctrl = 103#8 then .ok (.ccGLo n)
    else if ctrl = 102#8 then .ok (.ccGHi n)
    else if ctrl = 105#8 then .ok (.ccBLo n)
    else if ctrl = 104#8 then .ok (.ccBHi n)
    else .ok (.ccGeneric ctrl value)
  else .error (.notCcMessage w)

/-- The decoder of SysEx frames (R44; opcode table `MSG_SYSEX`): the three header bytes, four bytes with bit 7 clear,
and the end marker. -/
def decodeSysexFrame (w : SxWord) : Except DecodeError Instr :=
  if w &&& 0xFFFFFF80808080FF#64 = 0xF0640100000000F7#64 then
    .ok (.sysexColor (w.extractLsb' 32 7) (w.extractLsb' 24 7) (w.extractLsb' 16 7) (w.extractLsb' 8 7))
  else .error (.notSysexFrame w)

/-- The decoder of log records (R46, R47): the four codes, with the payload bits that R53 says are always zero. -/
def decodeLogRecord (w : Word) : Except DecodeError Instr :=
  match (topField w).toNat with
  | 1 => if colorField w = 0#28 then .ok .logSelChanged else .error (.notLogRecord w)
  | 2 => if highArgField w = 0#12 then .ok (.logCcSent (ctrlField w) (valueField w)) else .error (.notLogRecord w)
  | 3 => if highArgField w = 0#12 then .ok (.logCcRangeErr (ctrlField w) (valueField w)) else .error (.notLogRecord w)
  | 4 => .ok (.logSxSent (colorField w))
  | _ => .error (.notLogRecord w)

/-- The decoder of a row that has no command word of its own. -/
def decodeSub : SubWord → Except DecodeError Instr
  | .ccMessage w => decodeCcMessage w
  | .sysexFrame w => decodeSysexFrame w
  | .logRecord w => decodeLogRecord w
  | .chanIn color => .ok (.chan color)
  | .nibIn ch => .ok (.nib ch)
  | .ccPackIn color => .ok (.enccc color)
  | .sxPackIn color => .ok (.encsx color)
  | .validIn value => .ok (.valid7 value)

/-- The decoder of everything an instruction is written as, in the block as it is built. -/
def decode : Encoded → Except DecodeError Instr
  | .command w => decodeCommand Params.default w
  | .sub u => decodeSub u

/-- A command word or a log record from its top four bits and the 28 below them (R40, R46). -/
def joinWord (top : Nibble) (low : BitVec 28) : Word := top ++ low

/-- The payload `{0[11:0], ctrl, value}` of the two CC records (R47); with bits 27:16 zero it is VCC's operand as well
(R52, R55). -/
def ctrlValue (ctrl : Byte) (value : Byte) : BitVec 28 := 0#12 ++ ctrl ++ value

/-- A CC message read as a number, byte 0 the most significant (opcode table `MSG_CC`). -/
def ccWordOf (ctrl : Byte) (value : Byte) : CcWord := 0xB0#8 ++ ctrl ++ value

/-- A nibble as a value byte (R49). -/
def nibbleByte (n : Nibble) : Byte := n.setWidth 8

/-- A 7-bit group as a data byte (R50). -/
def groupByte (d : Septet) : Byte := d.setWidth 8

/-- A SysEx frame read as a number, byte 0 the most significant (opcode table `MSG_SYSEX`). -/
def sxWordOf (d0 d1 d2 d3 : Septet) : SxWord :=
  0xF06401#24 ++ groupByte d0 ++ groupByte d1 ++ groupByte d2 ++ groupByte d3 ++ 0xF7#8

/-- The encoder: the words of R40, R43, R44 and R47 and the assembler's command words of R55, with every ignored bit
zero. A pure operation has no bit pattern (R56): it is written as the input of its sub-block. -/
def encode : Instr → Encoded
  | .selnone => .command (joinWord 0x0#4 0#28)
  | .sel color => .command (joinWord 0x1#4 color)
  | .seten en => .command (joinWord 0x2#4 ((BitVec.ofBool en).setWidth 28))
  | .cccol color => .command (joinWord 0x3#4 color)
  | .sxcol color => .command (joinWord 0x4#4 color)
  | .vcc ctrl value => .command (joinWord 0x5#4 (ctrlValue ctrl value))
  | .ccRLo n => .sub (.ccMessage (ccWordOf 0x65#8 (nibbleByte n)))
  | .ccRHi n => .sub (.ccMessage (ccWordOf 0x64#8 (nibbleByte n)))
  | .ccGLo n => .sub (.ccMessage (ccWordOf 0x67#8 (nibbleByte n)))
  | .ccGHi n => .sub (.ccMessage (ccWordOf 0x66#8 (nibbleByte n)))
  | .ccBLo n => .sub (.ccMessage (ccWordOf 0x69#8 (nibbleByte n)))
  | .ccBHi n => .sub (.ccMessage (ccWordOf 0x68#8 (nibbleByte n)))
  | .ccGeneric ctrl value => .sub (.ccMessage (ccWordOf ctrl (groupByte value)))
  | .sysexColor d0 d1 d2 d3 => .sub (.sysexFrame (sxWordOf d0 d1 d2 d3))
  | .logSelChanged => .sub (.logRecord (joinWord 0x1#4 0#28))
  | .logCcSent ctrl value => .sub (.logRecord (joinWord 0x2#4 (ctrlValue ctrl value)))
  | .logCcRangeErr ctrl value => .sub (.logRecord (joinWord 0x3#4 (ctrlValue ctrl value)))
  | .logSxSent color => .sub (.logRecord (joinWord 0x4#4 color))
  | .chan color => .sub (.chanIn color)
  | .nib ch => .sub (.nibIn ch)
  | .enccc color => .sub (.ccPackIn color)
  | .encsx color => .sub (.sxPackIn color)
  | .valid7 value => .sub (.validIn value)

/-- A row's pattern in the opcode table: how many bits it has, and which of them are fixed to what. -/
structure TableRow where
  bits : Nat
  pattern : Nat
  mask : Nat
  deriving DecidableEq, Repr

/-- The `width_bits`, `match` and `mask` of an instruction's row; a `FUNC` row has none. -/
def tableRow : Instr → Option TableRow
  | .selnone => some ⟨32, 0x00000000, 0xF0000000⟩
  | .sel _ => some ⟨32, 0x10000000, 0xF0000000⟩
  | .seten _ => some ⟨32, 0x20000000, 0xF0000000⟩
  | .cccol _ => some ⟨32, 0x30000000, 0xF0000000⟩
  | .sxcol _ => some ⟨32, 0x40000000, 0xF0000000⟩
  | .vcc _ _ => some ⟨32, 0x50000000, 0xF0000000⟩
  | .ccRLo _ => some ⟨24, 0xB06500, 0xFFFFF0⟩
  | .ccRHi _ => some ⟨24, 0xB06400, 0xFFFFF0⟩
  | .ccGLo _ => some ⟨24, 0xB06700, 0xFFFFF0⟩
  | .ccGHi _ => some ⟨24, 0xB06600, 0xFFFFF0⟩
  | .ccBLo _ => some ⟨24, 0xB06900, 0xFFFFF0⟩
  | .ccBHi _ => some ⟨24, 0xB06800, 0xFFFFF0⟩
  | .ccGeneric _ _ => some ⟨24, 0xB00000, 0xFF0080⟩
  | .sysexColor _ _ _ _ => some ⟨64, 0xF0640100000000F7, 0xFFFFFF80808080FF⟩
  | .logSelChanged => some ⟨32, 0x10000000, 0xFFFFFFFF⟩
  | .logCcSent _ _ => some ⟨32, 0x20000000, 0xFFFF0000⟩
  | .logCcRangeErr _ _ => some ⟨32, 0x30000000, 0xFFFF0000⟩
  | .logSxSent _ => some ⟨32, 0x40000000, 0xF0000000⟩
  | .chan _ => none
  | .nib _ => none
  | .enccc _ => none
  | .encsx _ => none
  | .valid7 _ => none

/-- The bits of a written instruction, with their number; the input of a combinational sub-block has no pattern. -/
def encodedBits : Encoded → Option (Nat × Nat)
  | .command w => some (32, w.toNat)
  | .sub (.ccMessage w) => some (24, w.toNat)
  | .sub (.sysexFrame w) => some (64, w.toNat)
  | .sub (.logRecord w) => some (32, w.toNat)
  | .sub (.chanIn _) => none
  | .sub (.nibIn _) => none
  | .sub (.ccPackIn _) => none
  | .sub (.sxPackIn _) => none
  | .sub (.validIn _) => none

/-- Where a table word of so many bits is written: 32 bits are a command word (log 4: a log record has the same 32 bits,
on another port), 24 bits a CC message, 64 bits a SysEx frame; the table has no row of another width. -/
def tableWord (nbits w : Nat) : Option Encoded :=
  match nbits with
  | 24 => some (.sub (.ccMessage (BitVec.ofNat 24 w)))
  | 32 => some (.command (BitVec.ofNat 32 w))
  | 64 => some (.sub (.sysexFrame (BitVec.ofNat 64 w)))
  | _ => none

/-- The instruction the decoder reads from a word of the opcode table. -/
def decodeTableWord (nbits w : Nat) : Option Instr :=
  match tableWord nbits w with
  | none => none
  | some e =>
    match decode e with
    | .ok i => some i
    | .error _ => none

end Sys2Proof
end

