-- ==== Sys2Proof/Machine/State.lean ====
section
/-! DEFINITION. The state as plain data: the one architectural bit, the output trace, what the host presents, the hidden
state of the signal level, and the model's own fields; the fault and the refusals; the state after reset. -/

namespace Sys2Proof.Machine

/-- One event of the output trace (00_scope.md R8, R9): a whole MIDI message, or a log record of a 4-bit code and a
28-bit payload (30_encoding.md R46). -/
inductive Event where
  | midi (bytes : List Byte)
  | log (code : Nibble) (payload : BitVec 28)
  deriving DecidableEq, Repr

/-- What the host may do between commands (20_memory.md R20, 92_eei_decisions.md D28): present a command word, or reset
the block. -/
inductive HostInput where
  | command (w : Word)
  | reset
  deriving DecidableEq, Repr

/-- What a combinational sub-block drives on its internal output ports (20_memory.md R39). -/
inductive SubResult where
  /-- The three channels (R61). -/
  | channels (r g b : Byte)
  /-- `nib_lo` and `nib_hi` (R62). -/
  | nibbles (lo hi : Nibble)
  /-- The six pairs `cc_ctrl[k]`, `cc_val[k]` (R64). -/
  | ccPairs (pairs : List (Byte × Nibble))
  /-- The eight bytes `sx[k]` (R66). -/
  | sxBytes (bytes : List Byte)
  /-- `ok` of the validator (R70). -/
  | verdict (ok : Bool)
  deriving DecidableEq, Repr

/-- A command that has been accepted and whose events are not all out (10_state.md R16): the accepted command word, and
the sequencer position, held as the events not yet fully presented and the number of bytes already presented of the
first MIDI message among them. -/
structure Flight where
  word : Word
  events : List Event
  sent : Nat
  deriving DecidableEq, Repr

/-- The state of the signal level (R16), and three fields of the model's own: the command the host presented without its
being accepted (R35, R110), whether a reset edge has passed since power-up, before which the rest is unspecified (R108;
log 22), and the number of cycles, which the free values are read at (log 9). -/
structure SignalState where
  /-- `none` is `busy = 0`. -/
  flight : Option Flight
  waiting : Option Word
  settled : Bool
  tick : Nat
  deriving DecidableEq, Repr

/-- The machine's state. -/
structure State where
  /-- The one bit of architectural state (R10). -/
  enabled : Bool
  /-- The output trace (R9), oldest event first: an observation, read by no rule (R18). -/
  trace : List Event
  /-- What the host has for the command port, next first (R20, R31). -/
  inputs : List HostInput
  /-- The signal level (R16). -/
  signal : SignalState
  /-- The model's own (log 3): a table row without a command word, placed from outside to be run by the next step. -/
  bench : Option SubWord
  /-- The model's own (log 3): what the last pure operation run by itself drove on its output ports (R39). -/
  probe : Option SubResult
  deriving DecidableEq, Repr

/-- Why the machine stops with a fault. -/
inductive Fault where
  /-- `rst = 1` in a cycle where a command is in flight: its message may be cut short. Raised by the signal level alone,
  as 93_implementation_defined.md U5 says (R107). Safe: the run stops there. -/
  | resetInFlight
  deriving DecidableEq, Repr

/-- Why the machine gives no result. -/
inductive Refusal where
  /-- An instruction without a meaning in this model: raised by no arm. Safe. -/
  | notModelled (mnemonic : String)
  /-- A command word whose opcode is reserved (R51, U1), or is a direct command of a block built without them (R5, U18).
  Raised when the word is fetched or accepted. Safe: the run supports no claim. -/
  | reservedOpcode (op : Nibble)
  /-- A sub-word placed from outside that is no row of its format (R42, R44, R53). Raised at its fetch. Safe: no run from
  reset has one. -/
  | notARow (u : SubWord)
  /-- The host withdrew or changed a command it had presented and that was not accepted, in reset or out of it (R110, U9).
  Raised by the signal level alone. Safe: the run supports no claim. -/
  | commandWithdrawn (w : Word)
  deriving DecidableEq, Repr

/-- The machine right after reset (10_state.md R17, 70_reset_and_hazards.md R105, R106): `enabled` is `RESET_ENABLED`,
the trace is empty, no command is in flight and the host presents nothing. -/
def State.reset : State :=
  { enabled := Params.default.resetEnabled
    trace := []
    inputs := []
    signal := { flight := none, waiting := none, settled := true, tick := 0 }
    bench := none
    probe := none }

end Sys2Proof.Machine
end

