-- ==== Sys2Proof/Machine/Ops.lean ====
section
/-! DEFINITION. The named operations on the state: the two output primitives, the exception, the one register write, the
ports of the sub-blocks, and reset. -/

namespace Sys2Proof.Machine

/-- Append events to the output trace (R8, R9). -/
def State.emit (s : State) (es : List Event) : State := { s with trace := s.trace ++ es }

/-- `MidiSend(bytes)`: append one MIDI message (R8, R21). It cannot fail and does not wait. -/
def State.midiSend (s : State) (bytes : List Byte) : State := s.emit [.midi bytes]

/-- `LogEmit(code, payload)`: append one log record (R8, R21). It cannot fail and does not wait. -/
def State.logEmit (s : State) (code : Nibble) (payload : BitVec 28) : State := s.emit [.log code payload]

/-- The code of `LOG_SEL_CHANGED` (R47). -/
def logSelChangedCode : Nibble := 0x1#4

/-- The code of `LOG_CC_SENT` (R47). -/
def logCcSentCode : Nibble := 0x2#4

/-- The code of `LOG_CC_RANGE_ERR`, which is the code of the exception as well (R47, R91). -/
def logCcRangeErrCode : Nibble := 0x3#4

/-- The code of `LOG_SX_SENT` (R47). -/
def logSxSentCode : Nibble := 0x4#4

/-- Taking the exception OutOfRangeValue (R8, R90, R96): one error record where the message and its success record would
have stood. Nothing is saved, masked or changed and control goes nowhere, so that execution continues with the caller's
next statement; there is no return from it (R97). -/
def State.raiseOutOfRange (s : State) (ctrl value : Byte) : State :=
  s.logEmit logCcRangeErrCode (ctrlValue ctrl value)

/-- `enabled <- v`: the write of the one control register (R10, R14). -/
def State.setEnabled (s : State) (v : Bool) : State := { s with enabled := v }

/-- The status output `enabled_o`, which equals `enabled` at all times (R19). -/
def State.enabledOut (s : State) : Bool := s.enabled

/-- A sub-block that is run by itself drives its output ports (R39; log 3). -/
def State.drive (s : State) (r : SubResult) : State := { s with probe := some r }

/-- The reset edge (R105, R108), from any state: the block goes to the reset state, and emits nothing. What the host still
has to present lies outside the block and stays; the model's cycle count goes on (log 7). -/
def State.resetEdge (s : State) : State :=
  { State.reset with
    inputs := s.inputs
    signal := { flight := none, waiting := none, settled := true, tick := s.signal.tick } }

/-- The block as it comes up (R108), from any state: no reset edge has passed, so that the flag and the hidden state are
unspecified, whatever the given state has; nothing is in the trace, and the host has presented nothing (log 22). -/
def State.powerUp (s : State) : State :=
  { s with
    trace := []
    signal := { s.signal with waiting := none, settled := false } }

/-- Present the rest of a command in flight: its remaining events go out in their order and the block is idle again
(R30, R35). With no command in flight nothing happens. -/
def State.complete (s : State) : State :=
  match s.signal.flight with
  | none => s
  | some f => { s.emit f.events with signal := { s.signal with flight := none } }

end Sys2Proof.Machine
end

