-- ==== Sys2Proof/Machine/Operands.lean ====
section
/-! DEFINITION. Operand assembly: the pure operations CHAN, NIB, ENCCC and ENCSX, the bytes of the messages, and the inverse
functions that the spec gives so that a claim can speak of them. The packers follow the pseudocode, with shifts and masks;
that they are the bit slices the spec names beside it is a statement. -/

namespace Sys2Proof.Machine

/-- CHAN (R48, R61): the three channels by shift and mask. -/
def chan (color : Color) : Byte × Byte × Byte :=
  (((color >>> 16) &&& 0xFF#28).setWidth 8,
   ((color >>> 8) &&& 0xFF#28).setWidth 8,
   (color &&& 0xFF#28).setWidth 8)

/-- NIB (R49, R62): the low nibble first. -/
def nib (ch : Byte) : Nibble × Nibble :=
  ((ch &&& 0x0F#8).setWidth 4, (ch >>> 4).setWidth 4)

/-- ENCCC (R64): six pairs of a controller and a nibble, low before high, red before green before blue. -/
def enccc (cfg : Config) (color : Color) : List (Byte × Nibble) :=
  let (r, g, b) := chan color
  let (rlo, rhi) := nib r
  let (glo, ghi) := nib g
  let (blo, bhi) := nib b
  [(cfg.ccRLo, rlo), (cfg.ccRHi, rhi),
   (cfg.ccGLo, glo), (cfg.ccGHi, ghi),
   (cfg.ccBLo, blo), (cfg.ccBHi, bhi)]

/-- The data byte `(color >> n) & 0x7F` (R50). -/
def sevenBits (color : Color) (n : Nat) : Byte := ((color >>> n) &&& 0x7F#28).setWidth 8

/-- ENCSX (R66): the frame of eight bytes. -/
def encsx (cfg : Config) (color : Color) : List Byte :=
  [cfg.sysexStart, cfg.sysexManufacturerId, cfg.sysexCommand,
   sevenBits color 0, sevenBits color 7, sevenBits color 14, sevenBits color 21,
   cfg.sysexEnd]

/-- The three bytes of a CC message (R23, R42). -/
def ccMessage (cfg : Config) (ctrl value : Byte) : List Byte := [cfg.ccStatus, ctrl, value]

/-- The eight bytes of a SysEx frame with given data groups (R44). -/
def sysexFrame (cfg : Config) (d0 d1 d2 d3 : Septet) : List Byte :=
  [cfg.sysexStart, cfg.sysexManufacturerId, cfg.sysexCommand,
   groupByte d0, groupByte d1, groupByte d2, groupByte d3,
   cfg.sysexEnd]

/-- The document's reconstruction `R<<16 | G<<8 | B` (R56, R61); no part of the block. -/
def unchan (r g b : Byte) : Color :=
  (r.setWidth 28 <<< 16) ||| (g.setWidth 28 <<< 8) ||| b.setWidth 28

/-- UNNIB (R63): `lo | (hi << 4)`; no part of the block. -/
def unnib (lo hi : Nibble) : Byte := lo.setWidth 8 ||| (hi.setWidth 8 <<< 4)

/-- The inverse of ENCCC on the six values in list order, `color = {v2, v1, v4, v3, v6, v5}` (R65); a list that is not
six values has none. No part of the block. -/
def unenccc (values : List Nibble) : Option (BitVec 24) :=
  match values with
  | [v1, v2, v3, v4, v5, v6] => some (v2 ++ v1 ++ v4 ++ v3 ++ v6 ++ v5)
  | _ => none

/-- The inverse of ENCSX on the four data bytes, `d0 | (d1 << 7) | (d2 << 14) | (d3 << 21)` (R67); a list that is not
eight bytes has none. No part of the block. -/
def unencsx (bytes : List Byte) : Option Color :=
  match bytes with
  | [_, _, _, d0, d1, d2, d3, _] =>
    some (d0.setWidth 28 ||| (d1.setWidth 28 <<< 7) ||| (d2.setWidth 28 <<< 14) ||| (d3.setWidth 28 <<< 21))
  | _ => none

end Sys2Proof.Machine
end

