-- ==== Sys2Proof/Machine/Encoder.lean ====
section
/-! DEFINITION. The Color Encoder's rows CHAN, NIB, ENCCC and ENCSX (40_encoder.md). Run by itself, a sub-block drives its
result on its output ports and changes nothing else (20_memory.md R39, 40_encoder.md R68; log 3). -/

namespace Sys2Proof.Machine

/-- The result of CHAN on the ports (R61). -/
def chanResult (color : Color) : SubResult := .channels (chan color).1 (chan color).2.1 (chan color).2.2

/-- CHAN (R61). -/
def execChan (color : Color) (s : State) : Host.Outcome State Fault Refusal :=
  .next (s.drive (chanResult color))

/-- NIB (R62). -/
def execNib (ch : Byte) (s : State) : Host.Outcome State Fault Refusal :=
  .next (s.drive (.nibbles (nib ch).1 (nib ch).2))

/-- ENCCC (R64). -/
def execEnccc (color : Color) (s : State) : Host.Outcome State Fault Refusal :=
  .next (s.drive (.ccPairs (enccc Config.default color)))

/-- ENCSX (R66). -/
def execEncsx (color : Color) (s : State) : Host.Outcome State Fault Refusal :=
  .next (s.drive (.sxBytes (encsx Config.default color)))

end Sys2Proof.Machine
end

