-- ==== Sys2Proof/Machine/Messages.lean ====
section
/-! DEFINITION. The rows of the two message formats: what the MIDI sink port carries (30_encoding.md R42 to R44). A row run by
itself sends its one message, as `MidiSend` does (20_memory.md R21; log 3). -/

namespace Sys2Proof.Machine

/-- Send a CC message that carries a nibble (R42, R49). -/
def nibbleMessageOp (cfg : Config) (ctrl : Byte) (n : Nibble) (s : State) : State :=
  s.midiSend (ccMessage cfg ctrl (nibbleByte n))

/-- Send a CC message with any controller and a 7-bit value (R42). -/
def genericMessageOp (cfg : Config) (ctrl : Byte) (value : Septet) (s : State) : State :=
  s.midiSend (ccMessage cfg ctrl (groupByte value))

/-- Send a SysEx frame (R44). -/
def sysexMessageOp (cfg : Config) (d0 d1 d2 d3 : Septet) (s : State) : State :=
  s.midiSend (sysexFrame cfg d0 d1 d2 d3)

/-- CC_R_LO (R43): red's low nibble. -/
def execCcRLo (n : Nibble) (s : State) : Host.Outcome State Fault Refusal :=
  .next (nibbleMessageOp Config.default Config.default.ccRLo n s)

/-- CC_R_HI (R43): red's high nibble. -/
def execCcRHi (n : Nibble) (s : State) : Host.Outcome State Fault Refusal :=
  .next (nibbleMessageOp Config.default Config.default.ccRHi n s)

/-- CC_G_LO (R43): green's low nibble. -/
def execCcGLo (n : Nibble) (s : State) : Host.Outcome State Fault Refusal :=
  .next (nibbleMessageOp Config.default Config.default.ccGLo n s)

/-- CC_G_HI (R43): green's high nibble. -/
def execCcGHi (n : Nibble) (s : State) : Host.Outcome State Fault Refusal :=
  .next (nibbleMessageOp Config.default Config.default.ccGHi n s)

/-- CC_B_LO (R43): blue's low nibble. -/
def execCcBLo (n : Nibble) (s : State) : Host.Outcome State Fault Refusal :=
  .next (nibbleMessageOp Config.default Config.default.ccBLo n s)

/-- CC_B_HI (R43): blue's high nibble. -/
def execCcBHi (n : Nibble) (s : State) : Host.Outcome State Fault Refusal :=
  .next (nibbleMessageOp Config.default Config.default.ccBHi n s)

/-- CC_GENERIC (R42): any controller, unvalidated. -/
def execCcGeneric (ctrl : Byte) (value : Septet) (s : State) : Host.Outcome State Fault Refusal :=
  .next (genericMessageOp Config.default ctrl value s)

/-- SYSEX_COLOR (R44): the eight bytes as one message. -/
def execSysexColor (d0 d1 d2 d3 : Septet) (s : State) : Host.Outcome State Fault Refusal :=
  .next (sysexMessageOp Config.default d0 d1 d2 d3 s)

end Sys2Proof.Machine
end

