-- ==== Sys2Proof/Machine/Records.lean ====
section
/-! DEFINITION. The four log records (30_encoding.md R47). A row run by itself emits its one record, as `LogEmit` does
(20_memory.md R21; log 3). -/

namespace Sys2Proof.Machine

/-- LOG_SEL_CHANGED (R47): payload zero. -/
def execLogSelChanged (s : State) : Host.Outcome State Fault Refusal :=
  .next (s.logEmit logSelChangedCode 0#28)

/-- LOG_CC_SENT (R47): controller and value. -/
def execLogCcSent (ctrl value : Byte) (s : State) : Host.Outcome State Fault Refusal :=
  .next (s.logEmit logCcSentCode (ctrlValue ctrl value))

/-- LOG_CC_RANGE_ERR (R47, R90): the record that the exception leaves. -/
def execLogCcRangeErr (ctrl value : Byte) (s : State) : Host.Outcome State Fault Refusal :=
  .next (s.raiseOutOfRange ctrl value)

/-- LOG_SX_SENT (R47): the color as the command gave it. -/
def execLogSxSent (color : Color) (s : State) : Host.Outcome State Fault Refusal :=
  .next (s.logEmit logSxSentCode color)

end Sys2Proof.Machine
end

