-- ==== Sys2Proof/Machine/Flags.lean ====
section
/-! DEFINITION. The block has one flag and no condition codes (10_state.md R13): the test of the flag that is the enable
gate, and the validator's verdict, which is stored nowhere. -/

namespace Sys2Proof.Machine

/-- The enable gate's permission bit (R39, R76): CCCOL reads it once and SXCOL reads it once. -/
def gateOpen (s : State) : Bool := s.enabled

/-- VALID7 (R70): `0 <= value <= 127` on an unsigned byte. -/
def valid7 (value : Byte) : Bool := 0 ≤ value.toNat && value.toNat ≤ 127

end Sys2Proof.Machine
end

