-- ==== Sys2Proof/Machine/Transmitter.lean ====
section
/-! DEFINITION. The Color Transmitter: the six commands (42_transmitter.md R75 to R82). An operation named …Op is the
command's pseudocode for any `Config`; a meaning named exec… is that operation in the block built with the default
`Config` (log 1). -/

namespace Sys2Proof.Machine

/-- SELNONE (R77, R92): nothing. -/
def selnoneOp (s : State) : State := s

/-- VCC (R82): send the message and record it, or take the exception OutOfRangeValue (R90). -/
def vccOp (cfg : Config) (ctrl value : Byte) (s : State) : State :=
  if valid7 value then
    (s.midiSend (ccMessage cfg ctrl value)).logEmit logCcSentCode (ctrlValue ctrl value)
  else
    s.raiseOutOfRange ctrl value

/-- The loop of CCCOL: VCC on each pair in list order, the nibble zero-extended (R49, R80). -/
def vccLoop (cfg : Config) (pairs : List (Byte × Nibble)) (s : State) : State :=
  match pairs with
  | [] => s
  | (ctrl, n) :: rest => vccLoop cfg rest (vccOp cfg ctrl (nibbleByte n) s)

/-- CCCOL (R80): the enable gate, then the six messages. -/
def cccolOp (cfg : Config) (color : Color) (s : State) : State :=
  if gateOpen s then vccLoop cfg (enccc cfg color) s else s

/-- SXCOL (R81): the enable gate, then the frame, unvalidated, and its record. -/
def sxcolOp (cfg : Config) (color : Color) (s : State) : State :=
  if gateOpen s then (s.midiSend (encsx cfg color)).logEmit logSxSentCode color else s

/-- SEL (R78): CCCOL, then SXCOL, then the record of the selection, which is not gated. -/
def selOp (cfg : Config) (color : Color) (s : State) : State :=
  (sxcolOp cfg color (cccolOp cfg color s)).logEmit logSelChangedCode 0#28

/-- SETEN (R79): write the flag. -/
def setenOp (en : Bool) (s : State) : State := s.setEnabled en

/-- The meaning of SELNONE (R77). -/
def execSelnone (s : State) : Host.Outcome State Fault Refusal := .next (selnoneOp s)

/-- The meaning of SEL (R78). -/
def execSel (color : Color) (s : State) : Host.Outcome State Fault Refusal := .next (selOp Config.default color s)

/-- The meaning of SETEN (R79). -/
def execSeten (en : Bool) (s : State) : Host.Outcome State Fault Refusal := .next (setenOp en s)

/-- The meaning of CCCOL (R80). -/
def execCccol (color : Color) (s : State) : Host.Outcome State Fault Refusal := .next (cccolOp Config.default color s)

/-- The meaning of SXCOL (R81). -/
def execSxcol (color : Color) (s : State) : Host.Outcome State Fault Refusal := .next (sxcolOp Config.default color s)

/-- The meaning of VCC (R82). -/
def execVcc (ctrl value : Byte) (s : State) : Host.Outcome State Fault Refusal :=
  .next (vccOp Config.default ctrl value s)

end Sys2Proof.Machine
end

