-- ==== Sys2Proof/Machine/Validator.lean ====
section
/-! DEFINITION. The validator's row VALID7 (41_validator.md R70). -/

namespace Sys2Proof.Machine

/-- VALID7 (R70): run by itself it drives its verdict on `ok` and changes nothing else (R39; log 3). -/
def execValid7 (value : Byte) (s : State) : Host.Outcome State Fault Refusal :=
  .next (s.drive (.verdict (valid7 value)))

end Sys2Proof.Machine
end

