-- ==== Sys2Proof/Machine/Dispatch.lean ====
section
/-! DEFINITION. One arm per instruction, each a direct call of its meaning (42_transmitter.md R75). -/

namespace Sys2Proof.Machine

def exec (i : Instr) (s : State) : Host.Outcome State Fault Refusal :=
  match i with
  | .selnone => Sys2Proof.Machine.execSelnone s
  | .sel color => Sys2Proof.Machine.execSel color s
  | .seten en => Sys2Proof.Machine.execSeten en s
  | .cccol color => Sys2Proof.Machine.execCccol color s
  | .sxcol color => Sys2Proof.Machine.execSxcol color s
  | .vcc ctrl value => Sys2Proof.Machine.execVcc ctrl value s
  | .ccRLo n => Sys2Proof.Machine.execCcRLo n s
  | .ccRHi n => Sys2Proof.Machine.execCcRHi n s
  | .ccGLo n => Sys2Proof.Machine.execCcGLo n s
  | .ccGHi n => Sys2Proof.Machine.execCcGHi n s
  | .ccBLo n => Sys2Proof.Machine.execCcBLo n s
  | .ccBHi n => Sys2Proof.Machine.execCcBHi n s
  | .ccGeneric ctrl value => Sys2Proof.Machine.execCcGeneric ctrl value s
  | .sysexColor d0 d1 d2 d3 => Sys2Proof.Machine.execSysexColor d0 d1 d2 d3 s
  | .logSelChanged => Sys2Proof.Machine.execLogSelChanged s
  | .logCcSent ctrl value => Sys2Proof.Machine.execLogCcSent ctrl value s
  | .logCcRangeErr ctrl value => Sys2Proof.Machine.execLogCcRangeErr ctrl value s
  | .logSxSent color => Sys2Proof.Machine.execLogSxSent color s
  | .chan color => Sys2Proof.Machine.execChan color s
  | .nib ch => Sys2Proof.Machine.execNib ch s
  | .enccc color => Sys2Proof.Machine.execEnccc color s
  | .encsx color => Sys2Proof.Machine.execEncsx color s
  | .valid7 value => Sys2Proof.Machine.execValid7 value s

end Sys2Proof.Machine
end

