-- ==== Sys2Proof/Machine/Fetch.lean ====
section
/-! DEFINITION. What the next step runs: the block fetches no program (10_state.md R12), it takes the next command word the
host presents (20_memory.md R20, R31). -/

namespace Sys2Proof.Machine

/-- What a step has before it. -/
inductive Fetched where
  /-- A step without an instruction: its whole effect. -/
  | done (s : State)
  /-- An instruction, and the state it is run in. -/
  | run (i : Instr) (s : State)
  /-- A word that has no meaning. -/
  | refuse (r : Refusal)
  deriving DecidableEq, Repr

/-- The next thing the block does. A command in flight, which only the signal level leaves, is completed first: no command
is accepted before (R31, R35). Then a row placed from outside the machine (log 3), which no run from reset has. Then the
host's next input: a command word, which is taken and decoded (R75), or a reset (R105). With nothing presented the block is
idle (60_exceptions.md R102, 42_transmitter.md R86). -/
def fetch (s : State) : Fetched :=
  match s.signal.flight with
  | some _ => .done s.complete
  | none =>
    match s.bench with
    | some u =>
      match decode (.sub u) with
      | .ok i => .run i { s with bench := none }
      | .error _ => .refuse (.notARow u)
    | none =>
      match s.inputs with
      | [] => .done s
      | .reset :: rest => .done { s with inputs := rest }.resetEdge
      | .command w :: rest =>
        match decode (.command w) with
        | .ok i => .run i { s with inputs := rest }
        | .error _ => .refuse (.reservedOpcode (topField w))

/-- Place a written instruction where the next step takes it from: a command word before what the host has for the command
port, a sub-word on the bench; nothing else may stand before it. -/
def State.place (s : State) (e : Encoded) : State :=
  match e with
  | .command w =>
    { s with
      inputs := .command w :: s.inputs
      bench := none
      signal := { s.signal with flight := none } }
  | .sub u =>
    { s with
      bench := some u
      signal := { s.signal with flight := none } }

end Sys2Proof.Machine
end

