-- ==== Sys2Proof/Machine/Step.lean ====
section
/-! DEFINITION. One step of the machine: one command at the transaction level (00_scope.md R9). -/

namespace Sys2Proof.Machine

/-- One step (R9, R75). -/
def step (s : State) : Host.Outcome State Fault Refusal :=
  match fetch s with
  | .done s' => .next s'
  | .run i s' => exec i s'
  | .refuse r => .refused r

/-- The state with a word of the opcode table placed where `step` takes its next instruction from; a width the table does
not have places nothing. -/
def State.withFetchWord (s : State) (nbits w : Nat) : State :=
  match tableWord nbits w with
  | none => s
  | some e => s.place e

end Sys2Proof.Machine
end

