-- ==== Sys2Proof/Machine/Assembler.lean ====
section
/-! DEFINITION. The assembler of command scripts (30_encoding.md R55, R56). It is no part of the block: it writes the command words
that a host presents. -/

namespace Sys2Proof.Machine

/-- A line of a script, its operands as written. -/
inductive AsmLine where
  /-- A line without a command. -/
  | nothing
  | selnone
  | sel (color : Nat)
  /-- The pseudo-command with three operands (R56). -/
  | selRgb (r g b : Nat)
  | seten (en : Nat)
  /-- The pseudo-command of `SETEN 1` (R56). -/
  | enable
  /-- The pseudo-command of `SETEN 0` (R56). -/
  | disable
  | cccol (color : Nat)
  | sxcol (color : Nat)
  | vcc (ctrl value : Nat)
  deriving DecidableEq, Repr

/-- What a line assembles to. -/
inductive Assembled where
  | nothing
  | command (w : Word)
  /-- An operand is outside its limits, or the text is no command: an assembly error, not a command (R55). -/
  | wrong
  deriving DecidableEq, Repr

/-- A command word with an operand that is within its limit (R55). -/
def asmWord (limit : Nat) (top : Nibble) (operand : Nat) : Assembled :=
  if operand ≤ limit then .command (joinWord top (BitVec.ofNat 28 operand)) else .wrong

/-- The words of R55's table and the pseudo-commands of R56. -/
def assembleLine : AsmLine → Assembled
  | .nothing => .nothing
  | .selnone => .command (joinWord 0x0#4 0#28)
  | .sel color => asmWord 0xFFFFFFF 0x1#4 color
  | .selRgb r g b =>
    if r ≤ 255 ∧ g ≤ 255 ∧ b ≤ 255 then
      .command (joinWord 0x1#4 (unchan (BitVec.ofNat 8 r) (BitVec.ofNat 8 g) (BitVec.ofNat 8 b)))
    else .wrong
  | .seten en => asmWord 1 0x2#4 en
  | .enable => .command (joinWord 0x2#4 1#28)
  | .disable => .command (joinWord 0x2#4 0#28)
  | .cccol color => asmWord 0xFFFFFFF 0x3#4 color
  | .sxcol color => asmWord 0xFFFFFFF 0x4#4 color
  | .vcc ctrl value =>
    if ctrl ≤ 255 ∧ value ≤ 255 then
      .command (joinWord 0x5#4 (ctrlValue (BitVec.ofNat 8 ctrl) (BitVec.ofNat 8 value)))
    else .wrong

/-- The value of a digit, decimal or hexadecimal. DESIGN CHOICE (log 10): both cases of a hexadecimal digit. -/
def digitOf (c : Char) : Option Nat :=
  let n := c.toNat
  if 48 ≤ n ∧ n ≤ 57 then some (n - 48)
  else if 65 ≤ n ∧ n ≤ 70 then some (n - 55)
  else if 97 ≤ n ∧ n ≤ 102 then some (n - 87)
  else none

/-- The digits of a number in a base, most significant first. -/
def digitsValue (base acc : Nat) (cs : List Char) : Option Nat :=
  match cs with
  | [] => some acc
  | c :: rest =>
    match digitOf c with
    | none => none
    | some d => if d < base then digitsValue base (acc * base + d) rest else none

/-- A number in decimal, or in hexadecimal with `0x` (R55). -/
def numberOf (cs : List Char) : Option Nat :=
  match cs with
  | [] => none
  | '0' :: 'x' :: [] => none
  | '0' :: 'x' :: rest => digitsValue 16 0 rest
  | _ => digitsValue 10 0 cs

/-- White space of a line. DESIGN CHOICE (log 10): spaces and tabs, allowed around every part of a line. -/
def isBlank (c : Char) : Bool := c == ' ' || c == '\t'

/-- A text without the white space around it. -/
def trim (cs : List Char) : List Char := ((cs.dropWhile isBlank).reverse.dropWhile isBlank).reverse

/-- A text cut at every separator. -/
def cutAt (sep : Char) (cs : List Char) : List (List Char) :=
  match cs with
  | [] => [[]]
  | c :: rest =>
    match cutAt sep rest with
    | [] => [[c]]
    | part :: parts => if c == sep then [] :: part :: parts else (c :: part) :: parts

/-- The operands of a line, separated by commas (R55). -/
def operandsOf (cs : List Char) : Option (List Nat) :=
  if (trim cs).isEmpty then some [] else (cutAt ',' cs).mapM fun part => numberOf (trim part)

/-- The line of a mnemonic and its operands (R55, R56). -/
def lineOf (mnemonic : List Char) (operands : List Nat) : Option AsmLine :=
  match mnemonic, operands with
  | ['S', 'E', 'L', 'N', 'O', 'N', 'E'], [] => some .selnone
  | ['S', 'E', 'L'], [color] => some (.sel color)
  | ['S', 'E', 'L'], [r, g, b] => some (.selRgb r g b)
  | ['S', 'E', 'T', 'E', 'N'], [en] => some (.seten en)
  | ['E', 'N', 'A', 'B', 'L', 'E'], [] => some .enable
  | ['D', 'I', 'S', 'A', 'B', 'L', 'E'], [] => some .disable
  | ['C', 'C', 'C', 'O', 'L'], [color] => some (.cccol color)
  | ['S', 'X', 'C', 'O', 'L'], [color] => some (.sxcol color)
  | ['V', 'C', 'C'], [ctrl, value] => some (.vcc ctrl value)
  | _, _ => none

/-- A line of text (R55): a comment runs from `;` to the end of the line; a mnemonic, then operands. -/
def parseLine (text : List Char) : Option AsmLine :=
  let code := trim (text.takeWhile fun c => !(c == ';'))
  if code.isEmpty then some .nothing
  else
    match operandsOf (code.dropWhile fun c => !isBlank c) with
    | none => none
    | some operands => lineOf (code.takeWhile fun c => !isBlank c) operands

/-- The command words of lines in order; an error anywhere is an error of the script. -/
def assembleLines (ls : List (List Char)) : Option (List Word) :=
  match ls with
  | [] => some []
  | text :: rest =>
    match (parseLine text).map assembleLine with
    | none => none
    | some .wrong => none
    | some .nothing => assembleLines rest
    | some (.command w) =>
      match assembleLines rest with
      | none => none
      | some ws => some (w :: ws)

/-- A script: one command per line (R55). DESIGN CHOICE (log 10): a line ends at a line feed alone, or at the end of the script; a
carriage return is no part of a line end and no white space. -/
def assemble (script : List Char) : Option (List Word) := assembleLines (cutAt '\n' script)

end Sys2Proof.Machine
end

