-- ==== Sys2Proof/Machine/Block.lean ====
section
/-! DEFINITION. The block as the spec's function `step(cfg, enabled, cmd) = (enabled', events)` (00_scope.md R9,
42_transmitter.md R75), for every `Config` and both parameters of R5: what a claim about every `Config` speaks of. -/

namespace Sys2Proof.Machine

/-- The effect of a row for any `Config`. The meanings of `exec` are these for the default `Config`. -/
def effect (cfg : Config) (i : Instr) (s : State) : State :=
  match i with
  | .selnone => selnoneOp s
  | .sel color => selOp cfg color s
  | .seten en => setenOp en s
  | .cccol color => cccolOp cfg color s
  | .sxcol color => sxcolOp cfg color s
  | .vcc ctrl value => vccOp cfg ctrl value s
  | .ccRLo n => nibbleMessageOp cfg cfg.ccRLo n s
  | .ccRHi n => nibbleMessageOp cfg cfg.ccRHi n s
  | .ccGLo n => nibbleMessageOp cfg cfg.ccGLo n s
  | .ccGHi n => nibbleMessageOp cfg cfg.ccGHi n s
  | .ccBLo n => nibbleMessageOp cfg cfg.ccBLo n s
  | .ccBHi n => nibbleMessageOp cfg cfg.ccBHi n s
  | .ccGeneric ctrl value => genericMessageOp cfg ctrl value s
  | .sysexColor d0 d1 d2 d3 => sysexMessageOp cfg d0 d1 d2 d3 s
  | .logSelChanged => s.logEmit logSelChangedCode 0#28
  | .logCcSent ctrl value => s.logEmit logCcSentCode (ctrlValue ctrl value)
  | .logCcRangeErr ctrl value => s.raiseOutOfRange ctrl value
  | .logSxSent color => s.logEmit logSxSentCode color
  | .chan color => s.drive (chanResult color)
  | .nib ch => s.drive (.nibbles (nib ch).1 (nib ch).2)
  | .enccc color => s.drive (.ccPairs (enccc cfg color))
  | .encsx color => s.drive (.sxBytes (encsx cfg color))
  | .valid7 value => s.drive (.verdict (valid7 value))

/-- A block with a given flag and nothing else. -/
def blank (enabled : Bool) : State := { State.reset with enabled := enabled }

/-- The events a row emits, given the flag: `events` of R9 and R84. -/
def eventsOf (cfg : Config) (enabled : Bool) (i : Instr) : List Event := (effect cfg i (blank enabled)).trace

/-- What a row drives on the output ports of its sub-block, where it is a pure operation run by itself (R39; log 3). -/
def drivenBy (cfg : Config) (i : Instr) : Option SubResult := (effect cfg i (blank true)).probe

/-- The flag after a row, given the flag: `enabled'` of R9. -/
def enabledAfter (cfg : Config) (enabled : Bool) (i : Instr) : Bool := (effect cfg i (blank enabled)).enabled

/-- `step(cfg, enabled, cmd)` (R9, R75): total on every command word whose opcode is defined, without a result on a
reserved one (R51). -/
def blockStep (cfg : Config) (prm : Params) (enabled : Bool) (cmd : Word) : Option (Bool × List Event) :=
  match decodeCommand prm cmd with
  | .ok i => some (enabledAfter cfg enabled i, eventsOf cfg enabled i)
  | .error _ => none

/-- A run of command words in the order they are accepted: the last flag and the output trace, which is the concatenation
of the steps' events (R9, R31). A run that contains a reserved opcode has no result (R51). -/
def blockRun (cfg : Config) (prm : Params) (enabled : Bool) (cmds : List Word) : Option (Bool × List Event) :=
  match cmds with
  | [] => some (enabled, [])
  | cmd :: rest =>
    match blockStep cfg prm enabled cmd with
    | none => none
    | some (e, es) =>
      match blockRun cfg prm e rest with
      | none => none
      | some (e', es') => some (e', es ++ es')

end Sys2Proof.Machine
end

