-- ==== Sys2Proof/Machine/Trace.lean ====
section
/-! DEFINITION. What an observer of the output trace sees: the projections on the two ports (00_scope.md R9), the log's account of
the messages (60_exceptions.md R99), and the receiver that splits the bare byte stream (30_encoding.md R54). -/

namespace Sys2Proof.Machine

/-- The message of a `Midi` event. -/
def Event.message : Event → Option (List Byte)
  | .midi bytes => some bytes
  | .log _ _ => none

/-- The 32-bit record of a `Log` event (R46). -/
def Event.record : Event → Option Word
  | .midi _ => none
  | .log code payload => some (joinWord code payload)

/-- The messages of a trace, in order. -/
def messages (es : List Event) : List (List Byte) := es.filterMap Event.message

/-- The MIDI-only projection of a trace: the byte stream the external device receives (R9). -/
def midiStream (es : List Event) : List Byte := (messages es).flatten

/-- The log-only projection of a trace: the records the operator sees (R9). -/
def logRecords (es : List Event) : List Word := es.filterMap Event.record

/-- The message that a success record gives an account of (R99): of `LOG_CC_SENT` the CC message with that controller and
value, of `LOG_SX_SENT` the frame of that color; the other two records account for no message. -/
def messageOfRecord (cfg : Config) (w : Word) : Option (List Byte) :=
  match (topField w).toNat with
  | 2 => some (ccMessage cfg (ctrlField w) (valueField w))
  | 4 => some (encsx cfg (colorField w))
  | _ => none

/-- Whether a message is whole: for the default `Config` a message that begins 0xB0 has three bytes, and one that begins
0xF0 ends with 0xF7 (R54). -/
def messageEnds (bytes : List Byte) : Bool :=
  match bytes with
  | [] => false
  | b :: rest =>
    if b = 0xB0#8 then rest.length == 2
    else if b = 0xF0#8 then rest.getLast? == some 0xF7#8
    else false

/-- The receiver of R54 on a bare byte stream: collect bytes from the first one of a message until the message is whole. -/
def splitStream (partly : List Byte) (stream : List Byte) : List (List Byte) :=
  match stream with
  | [] => []
  | b :: rest =>
    if messageEnds (partly ++ [b]) then (partly ++ [b]) :: splitStream [] rest
    else splitStream (partly ++ [b]) rest

end Sys2Proof.Machine
end

