-- ==== Sys2Proof/Machine/Signal.lean ====
section
/-! DEFINITION. The signal-level binding (20_memory.md R32, R35 to R38; 70_reset_and_hazards.md R105, R107, R110, R114): one clock
cycle of the block over the same state, with the freedom the spec leaves an implementation as an argument, and the rule that
recovers the trace from the wires. -/

namespace Sys2Proof.Machine

/-- The inputs of one cycle. -/
structure PortsIn where
  rst : Bool
  cmdValid : Bool
  cmd : Word
  deriving DecidableEq, Repr

/-- The outputs of one cycle (section 6 of 20_memory.md). -/
structure PortsOut where
  cmdReady : Bool
  midiValid : Bool
  midiData : Byte
  midiSop : Bool
  midiEop : Bool
  logValid : Bool
  logRec : Word
  enabledO : Bool
  deriving DecidableEq, Repr

/-- What an implementation chooses in a cycle (R35, R36, R114): whether to present the next byte, whether to present the next
record, and whether a command without events keeps `cmd_ready` at 0. -/
structure Pace where
  byte : Bool
  record : Bool
  hold : Bool
  deriving DecidableEq, Repr

/-- One byte on the MIDI sink port (R36). -/
structure Beat where
  data : Byte
  sop : Bool
  eop : Bool
  deriving DecidableEq, Repr

/-- The first message among events not yet presented. -/
def firstMessage (es : List Event) : Option (List Byte) :=
  match es with
  | [] => none
  | .midi bytes :: _ => some bytes
  | .log _ _ :: rest => firstMessage rest

/-- Whether the next event is a message. -/
def messageIsNext (es : List Event) : Bool :=
  match es with
  | .midi _ :: _ => true
  | _ => false

/-- The next byte that may be presented (R36): bytes go out in list order, `sop` on the first and `eop` on the last. The
last byte waits for the records that stand before its message, so that the recovered order is the trace's (R32). -/
def nextBeat (f : Flight) : Option Beat :=
  match firstMessage f.events with
  | none => none
  | some bytes =>
    match bytes.drop f.sent with
    | [] => none
    | b :: rest =>
      if rest.isEmpty && !messageIsNext f.events then none
      else some { data := b, sop := f.sent == 0, eop := rest.isEmpty }

/-- The sequencer after a cycle's byte, if there is one: a message whose last byte was presented is done. -/
def Flight.afterBeat (f : Flight) (midi : Option Beat) : Flight :=
  match midi with
  | none => f
  | some b => if b.eop then { f with events := f.events.drop 1, sent := 0 } else { f with sent := f.sent + 1 }

/-- The record that may be presented next: records go out in trace order, each after its message (R32, R37). -/
def nextRecord (f : Flight) : Option Word :=
  match f.events with
  | .log code payload :: _ => some (joinWord code payload)
  | _ => none

/-- The sequencer after a cycle's record, if there is one. -/
def Flight.afterRecord (f : Flight) (record : Option Word) : Flight :=
  match record with
  | none => f
  | some _ => { f with events := f.events.drop 1 }

/-- What one cycle presents of a command in flight. -/
structure Presented where
  flight : Flight
  midi : Option Beat
  record : Option Word
  deriving DecidableEq, Repr

/-- The byte a cycle presents, if the implementation takes the chance. -/
def chosenBeat (p : Pace) (f : Flight) : Option Beat := if p.byte then nextBeat f else none

/-- The record a cycle presents after its byte, if the implementation takes the chance. -/
def chosenRecord (p : Pace) (f : Flight) : Option Word :=
  if p.record then nextRecord (f.afterBeat (chosenBeat p f)) else none

/-- At most one byte and at most one record in a cycle, the byte first (R32, R36, R37). -/
def present (p : Pace) (f : Flight) : Presented :=
  { flight := (f.afterBeat (chosenBeat p f)).afterRecord (chosenRecord p f)
    midi := chosenBeat p f
    record := chosenRecord p f }

/-- The events that are complete when the sequencer goes from one position to another. -/
def completed (old new : Flight) : List Event := old.events.take (old.events.length - new.events.length)

/-- `cmd_ready`: 0 in reset (R105) and while a command is in flight (R35). It depends on neither `cmd_valid` nor `cmd`. -/
def State.cmdReady (s : State) (rst : Bool) : Bool := !rst && s.signal.flight.isNone

/-- The wires of a cycle out of reset: a wire whose valid is 0 is a free value (U7). -/
def wires (s : State) (midi : Option Beat) (record : Option Word) : PortsOut :=
  { cmdReady := s.cmdReady false
    midiValid := midi.isSome
    midiData := match midi with
      | some b => b.data
      | none => Config.freeMidiData s.signal.tick
    midiSop := match midi with
      | some b => b.sop
      | none => Config.freeMidiSop s.signal.tick
    midiEop := match midi with
      | some b => b.eop
      | none => Config.freeMidiEop s.signal.tick
    logValid := record.isSome
    logRec := match record with
      | some w => w
      | none => Config.freeLogRec s.signal.tick
    enabledO := s.enabledOut }

/-- The wires of a cycle with `rst = 1` when a reset edge has passed and no command is in flight (R17, R105): the two valids
are 0, and so is `cmd_ready`. -/
def resetWires (s : State) : PortsOut := { wires s none none with cmdReady := s.cmdReady true }

/-- The wires of a cycle before the first reset edge (R108, U7; 90_conflicts.md C11): `cmd_ready` is 0 in a cycle with `rst = 1`,
and every other output is a free value. -/
def powerUpWires (rst : Bool) (s : State) : PortsOut :=
  { cmdReady := !rst && Config.freeCmdReady s.signal.tick
    midiValid := Config.freeMidiValid s.signal.tick
    midiData := Config.freeMidiData s.signal.tick
    midiSop := Config.freeMidiSop s.signal.tick
    midiEop := Config.freeMidiEop s.signal.tick
    logValid := Config.freeLogValid s.signal.tick
    logRec := Config.freeLogRec s.signal.tick
    enabledO := Config.freeEnabledO s.signal.tick }

/-- The signal level after a cycle. -/
def State.signalNext (s : State) (flight : Option Flight) (waiting : Option Word) : State :=
  { s with
    signal := { flight := flight, waiting := waiting, settled := s.signal.settled, tick := s.signal.tick + 1 } }

/-- Whether the host withdrew or changed a command that was waiting (R110), whatever `rst` is. -/
def withdrawn (s : State) (i : PortsIn) : Bool :=
  match s.signal.waiting with
  | none => false
  | some w => !(i.cmdValid && i.cmd == w)

/-- The command that waits after a cycle: one that was presented and not accepted. -/
def waitingAfter (i : PortsIn) (accepted : Bool) : Option Word :=
  if i.cmdValid && !accepted then some i.cmd else none

/-- The flight after a cycle of presenting: `cmd_ready` is 1 again in the very cycle after the command's last event, as R35 has
it; R114 calls the number of cycles from the last event to `cmd_ready = 1` not specified. DESIGN CHOICE (log 25): R35's reading.
A command without events may be held for any number of cycles (log 16). -/
def flightAfter (p : Pace) (old new : Flight) : Option Flight :=
  if new.events.isEmpty then (if old.events.isEmpty && p.hold then some new else none) else some new

/-- The flight after a command is accepted (R35): a command without events may leave `cmd_ready` at 1. -/
def flightOf (p : Pace) (w : Word) (es : List Event) : Option Flight :=
  if es.isEmpty && !p.hold then none else some { word := w, events := es, sent := 0 }

/-- A cycle with a command in flight: present, and accept nothing. -/
def busyCycle (i : PortsIn) (p : Pace) (f : Flight) (s : State) : State × PortsOut :=
  let q := present p f
  ((s.emit (completed f q.flight)).signalNext (flightAfter p f q.flight) (waitingAfter i false),
   wires s q.midi q.record)

/-- A cycle without one: accept the command that is presented, if there is one (R35). `enabled` changes at the accepting
edge; the first event comes in a later cycle (log 8). -/
def idleCycle (i : PortsIn) (p : Pace) (s : State) : Host.Outcome (State × PortsOut) Fault Refusal :=
  if i.cmdValid then
    match blockStep Config.default Params.default s.enabled i.cmd with
    | none => .refused (.reservedOpcode (topField i.cmd))
    | some (e, es) =>
      .next ((s.setEnabled e).signalNext (flightOf p i.cmd es) (waitingAfter i true), wires s none none)
  else
    .next (s.signalNext none (waitingAfter i false), wires s none none)

/-- A cycle with `rst = 1` (R105): the block goes to the reset state and accepts nothing, from any state. Before the first reset
edge its wires are free values (R108). -/
def resetCycle (i : PortsIn) (s : State) : State × PortsOut :=
  (s.resetEdge.signalNext none (waitingAfter i false), if s.signal.settled then resetWires s else powerUpWires true s)

/-- A cycle with `rst = 0` before the first reset edge (R108): the outputs may be anything, the flag is unspecified after it, and
the hidden state, which was unspecified before, is so after it. Nothing is accepted and nothing enters the trace (log 22). -/
def unresetCycle (i : PortsIn) (s : State) : State × PortsOut :=
  ((s.setEnabled (Config.freeEnabled s.signal.tick)).signalNext s.signal.flight
      (waitingAfter i (powerUpWires false s).cmdReady),
   powerUpWires false s)

/-- One clock cycle (R35 to R37, R105). A host that withdraws or changes a waiting command is refused, in reset or out of it
(R110, U9). Reset wins over an acceptable command (R95) and goes to the reset state; while a command is in flight it is the
fault that U5 names (R107), but before the first reset edge no command was accepted, whatever the hidden state has (R108). -/
def cycle (i : PortsIn) (p : Pace) (s : State) : Host.Outcome (State × PortsOut) Fault Refusal :=
  if withdrawn s i then
    .refused (.commandWithdrawn i.cmd)
  else if i.rst then
    if s.signal.settled && s.signal.flight.isSome then .fault .resetInFlight else .next (resetCycle i s)
  else if s.signal.settled then
    match s.signal.flight with
    | some f => .next (busyCycle i p f s)
    | none => idleCycle i p s
  else
    .next (unresetCycle i s)

/-- One cycle as an observer of all the ports sees it. -/
structure Sample where
  input : PortsIn
  output : PortsOut
  deriving DecidableEq, Repr

/-- A run of cycles, with the samples in order. -/
def runCycles (drive : List (PortsIn × Pace)) (s : State) : Host.Outcome (State × List Sample) Fault Refusal :=
  match drive with
  | [] => .next (s, [])
  | (i, p) :: rest =>
    match cycle i p s with
    | .fault r => .fault r
    | .refused r => .refused r
    | .next (s1, o) =>
      match runCycles rest s1 with
      | .fault r => .fault r
      | .refused r => .refused r
      | .next (s2, samples) => .next (s2, { input := i, output := o } :: samples)

/-- The bytes collected of the message that is going out, after a cycle's byte (R36). -/
def collect (partly : List Byte) (o : PortsOut) : List Byte :=
  if o.midiValid then (if o.midiSop then [o.midiData] else partly ++ [o.midiData]) else partly

/-- The events that one cycle completes on the wires, the message before the record (R32). -/
def recoverOne (partly : List Byte) (o : PortsOut) : List Event :=
  (if o.midiValid && o.midiEop then [.midi (collect partly o)] else [])
    ++ (if o.logValid then [.log (topField o.logRec) (colorField o.logRec)] else [])

/-- The trace recovered from the wires (R32): scan the cycles in order. A cycle with `rst = 1` is disregarded (R108), and a
message cut by it has no event. -/
def recover (partly : List Byte) (samples : List Sample) : List Event :=
  match samples with
  | [] => []
  | x :: rest =>
    if x.input.rst then recover [] rest
    else
      recoverOne partly x.output
        ++ recover (if x.output.midiValid && x.output.midiEop then [] else collect partly x.output) rest

/-- The commands accepted in a run of cycles, in order (R35). -/
def acceptedCommands (samples : List Sample) : List Word :=
  samples.filterMap fun x =>
    if x.input.cmdValid && x.output.cmdReady && !x.input.rst then some x.input.cmd else none

/-- The bytes of events still to be presented. -/
def bytesOf (es : List Event) : Nat := (midiStream es).length

/-- The bytes of a command in flight that are still to be presented (R115). -/
def bytesLeft (s : State) : Nat :=
  match s.signal.flight with
  | none => 0
  | some f => bytesOf f.events - f.sent

/-- The records of a command in flight that are still to be presented (R115). -/
def recordsLeft (s : State) : Nat :=
  match s.signal.flight with
  | none => 0
  | some f => (logRecords f.events).length

/-- The bytes already presented of the message that is going out. -/
def partMessage (s : State) : List Byte :=
  match s.signal.flight with
  | none => []
  | some f =>
    match firstMessage f.events with
    | none => []
    | some bytes => bytes.take f.sent

/-- A flight the sequencer can be in: no message is empty, and of the first one not all bytes are out; without a message no
byte is counted. -/
def Flight.ok (f : Flight) : Bool :=
  (f.events.all fun e => match e with
    | .midi bytes => !bytes.isEmpty
    | .log _ _ => true)
  && match firstMessage f.events with
    | none => f.sent == 0
    | some bytes => decide (f.sent < bytes.length)

/-- The signal level is at a position the block can reach. -/
def State.flightOk (s : State) : Bool :=
  match s.signal.flight with
  | none => true
  | some f => f.ok

end Sys2Proof.Machine
end

