-- ==== Sys2Proof/Safety.lean ====
section
/-! DEFINITION. What counts as a sound output trace and a machine at rest, in the terms the claims use. -/

namespace Sys2Proof.Machine

/-- A MIDI message of a form the block may emit (20_memory.md R21, 30_encoding.md R42, R44, R45, R53): a CC message of
three bytes with the status byte first and a value of at most 127, or the frame of eight bytes with its header, four data
bytes of at most 127 and its end marker. -/
def messageOk (cfg : Config) (bytes : List Byte) : Bool :=
  match bytes with
  | [status, _, value] => status == cfg.ccStatus && decide (value.toNat ≤ 127)
  | [b0, b1, b2, d0, d1, d2, d3, b7] =>
    b0 == cfg.sysexStart && b1 == cfg.sysexManufacturerId && b2 == cfg.sysexCommand
      && decide (d0.toNat ≤ 127) && decide (d1.toNat ≤ 127) && decide (d2.toNat ≤ 127) && decide (d3.toNat ≤ 127)
      && b7 == cfg.sysexEnd
  | _ => false

/-- A log record of a form the block may emit (R47, R53): one of the four codes, with zeros in the payload bits that are
always zero. -/
def recordOk (code : Nibble) (payload : BitVec 28) : Bool :=
  (code == logSelChangedCode && payload == 0#28)
    || ((code == logCcSentCode || code == logCcRangeErrCode) && decide (payload.toNat < 2 ^ 16))
    || code == logSxSentCode

/-- An event of a form the block may emit. -/
def eventOk (cfg : Config) (e : Event) : Bool :=
  match e with
  | .midi bytes => messageOk cfg bytes
  | .log code payload => recordOk code payload

/-- Every event of the trace, and every event that a command in flight still has to present, is one the block may emit. -/
def outputsOk (s : State) : Bool :=
  s.trace.all (eventOk Config.default)
    && match s.signal.flight with
      | none => true
      | some f => f.events.all (eventOk Config.default)

/-- The machine at the transaction level: no command in flight, none waiting, and no row placed from outside. -/
def atRest (s : State) : Bool := s.signal.flight.isNone && s.signal.waiting.isNone && s.bench.isNone

/-- A command is in flight, and a reset edge has passed since power-up, so that the rules hold (R108). -/
def InFlight (s : State) (f : Flight) : Prop := s.signal.settled = true ∧ s.signal.flight = some f

/-- No command is in flight, and a reset edge has passed since power-up. -/
def Ready (s : State) : Prop := s.signal.settled = true ∧ s.signal.flight = none

/-- The five pure operations, the rows of format `FUNC` (R56). -/
def isPureOperation (i : Instr) : Bool :=
  match i with
  | .chan _ => true
  | .nib _ => true
  | .enccc _ => true
  | .encsx _ => true
  | .valid7 _ => true
  | .selnone => false
  | .sel _ => false
  | .seten _ => false
  | .cccol _ => false
  | .sxcol _ => false
  | .vcc _ _ => false
  | .ccRLo _ => false
  | .ccRHi _ => false
  | .ccGLo _ => false
  | .ccGHi _ => false
  | .ccBLo _ => false
  | .ccBHi _ => false
  | .ccGeneric _ _ => false
  | .sysexColor _ _ _ _ => false
  | .logSelChanged => false
  | .logCcSent _ _ => false
  | .logCcRangeErr _ _ => false
  | .logSxSent _ => false

/-- A trace in which every message is followed at once by its own success record, and no success record stands without its
message (20_memory.md R30, 42_transmitter.md R83). The other two records stand alone. -/
def paired (cfg : Config) (es : List Event) : Bool :=
  match es with
  | [] => true
  | .midi bytes :: .log code payload :: rest =>
    decide (messageOfRecord cfg (joinWord code payload) = some bytes) && paired cfg rest
  | .midi _ :: [] => false
  | .midi _ :: .midi _ :: _ => false
  | .log code payload :: rest => decide (messageOfRecord cfg (joinWord code payload) = none) && paired cfg rest

/-- The machine at the transaction level with a paired trace. -/
def PairedAtRest (s : State) : Prop := atRest s = true ∧ paired Config.default s.trace = true

/-- Whether an event is the record of a refused value (R90, R84 e). -/
def isRangeError (e : Event) : Bool :=
  match e with
  | .midi _ => false
  | .log code _ => code == logCcRangeErrCode

/-- The number of messages of a trace. -/
def messageCount (es : List Event) : Nat := (messages es).length

/-- The number of records of a trace. -/
def recordCount (es : List Event) : Nat := (logRecords es).length

/-- The part of a color that the document calls a color: `color[27:24] = 0` (R5, R84 g). -/
def rgb (color : Color) : Color := color &&& 0x0FFFFFF#28

/-- A receiver that reads the bare byte stream can tell a message of the block from the next (R54, R84 f): the bytes after the
first that can open or close a message have bit 7 clear. -/
def streamable (bytes : List Byte) : Bool :=
  match bytes with
  | [b0, ctrl, value] => b0 == 0xB0#8 && decide (ctrl.toNat ≤ 127) && decide (value.toNat ≤ 127)
  | [b0, b1, b2, d0, d1, d2, d3, b7] =>
    b0 == 0xF0#8 && b7 == 0xF7#8
      && [b1, b2, d0, d1, d2, d3].all fun b => decide (b.toNat ≤ 127)
  | _ => false

/-- The two events of one color message, the nibble in bits 3 to 0 of the value (R43, R80). -/
def colorMessage (cfg : Config) (ctrl : Byte) (n : Nibble) : List Event :=
  [.midi [cfg.ccStatus, ctrl, 0#4 ++ n], .log 0x2#4 (0#12 ++ ctrl ++ (0#4 ++ n : Byte))]

/-- The twelve events of a color on the CC path, in bit terms (R43, R64, R80). -/
def colorMessages (cfg : Config) (color : Color) : List Event :=
  colorMessage cfg cfg.ccRLo (color.extractLsb' 16 4) ++ colorMessage cfg cfg.ccRHi (color.extractLsb' 20 4)
    ++ colorMessage cfg cfg.ccGLo (color.extractLsb' 8 4) ++ colorMessage cfg cfg.ccGHi (color.extractLsb' 12 4)
    ++ colorMessage cfg cfg.ccBLo (color.extractLsb' 0 4) ++ colorMessage cfg cfg.ccBHi (color.extractLsb' 4 4)

/-- The frame of a color, in bit terms (R44). -/
def colorFrame (cfg : Config) (color : Color) : List Byte :=
  [cfg.sysexStart, cfg.sysexManufacturerId, cfg.sysexCommand,
   0#1 ++ color.extractLsb' 0 7, 0#1 ++ color.extractLsb' 7 7, 0#1 ++ color.extractLsb' 14 7,
   0#1 ++ color.extractLsb' 21 7, cfg.sysexEnd]

/-- The next step takes a command word from the command port. -/
def AtPort (s : State) (w : Word) (rest : List HostInput) : Prop :=
  s.signal.flight = none ∧ s.bench = none ∧ s.inputs = .command w :: rest

/-- The cycle inputs of a host that presents nothing. -/
def quiet : PortsIn := { rst := false, cmdValid := false, cmd := 0#32 }

/-- An implementation that presents a byte and a record whenever it can, and holds nothing. -/
def fullPace : Pace := { byte := true, record := true, hold := false }

end Sys2Proof.Machine
end

