-- ==== Sys2Proof/Certificates/Slice0/Obligations.lean ====
section
/-! DEFINITION. The statements about the model, written from the numbered rules of the spec. -/

open Sys2Proof Sys2Proof.Machine

/-- DECODE AND ENCODE AGREE: the words of a well-formed instruction of any row are read back as that instruction, with every
operand at every value (R40 to R44, R46, R47). -/
def Obligations.EncodeThenDecodeGivesTheInstruction : Prop :=
  ∀ i : Instr, WellFormed i = true → decode (encode i) = .ok i

/-- What the decoder reads is well formed, and a message, a record or a sub-block input it reads has no other bits than the
ones its instruction is written as (R42 to R44, R47, R53). That a CC message of a color form is read as its color row and never
as CC_GENERIC, which is all that well-formedness asks, is the model's choice (log 5). -/
def Obligations.DecodedInstructionIsWellFormed : Prop :=
  (∀ (e : Encoded) (i : Instr), decode e = .ok i → WellFormed i = true)
  ∧ (∀ (u : SubWord) (i : Instr), decode (.sub u) = .ok i → encode i = .sub u)

/-- The opcode map on every command word (R41, R75), by the bits of the word. -/
def Obligations.CommandWordsFollowTheOpcodeMap : Prop :=
  ∀ w : Word,
    (w.extractLsb' 28 4 = 0x0#4 → decode (.command w) = .ok .selnone)
    ∧ (w.extractLsb' 28 4 = 0x1#4 → decode (.command w) = .ok (.sel (w.extractLsb' 0 28)))
    ∧ (w.extractLsb' 28 4 = 0x2#4 → decode (.command w) = .ok (.seten (w.getLsbD 0)))
    ∧ (w.extractLsb' 28 4 = 0x3#4 → decode (.command w) = .ok (.cccol (w.extractLsb' 0 28)))
    ∧ (w.extractLsb' 28 4 = 0x4#4 → decode (.command w) = .ok (.sxcol (w.extractLsb' 0 28)))
    ∧ (w.extractLsb' 28 4 = 0x5#4 → decode (.command w) = .ok (.vcc (w.extractLsb' 8 8) (w.extractLsb' 0 8)))
    ∧ (6 ≤ (w.extractLsb' 28 4).toNat → decode (.command w) = .error (.reservedOpcode (w.extractLsb' 28 4)))

/-- A few words written out from the encodings (R40, R43, R44, R47; 95_test_vectors.md). -/
def Obligations.WordsOfTheSpecDecode : Prop :=
  decode (.command 0x10123456#32) = .ok (.sel 0x123456#28)
  ∧ decode (.command 0x2FFFFFFE#32) = .ok (.seten false)
  ∧ decode (.command 0x5FFF8001#32) = .ok (.vcc 128#8 1#8)
  ∧ decode (.sub (.ccMessage 0xB06605#24)) = .ok (.ccGHi 5#4)
  ∧ decode (.sub (.ccMessage 0xB06840#24)) = .ok (.ccGeneric 104#8 0x40#7)
  ∧ decode (.sub (.sysexFrame 0xF0640156684800F7#64)) = .ok (.sysexColor 0x56#7 0x68#7 0x48#7 0x00#7)
  ∧ decode (.sub (.logRecord 0x30006580#32)) = .ok (.logCcRangeErr 101#8 128#8)

/-- A reserved opcode has no meaning, with any `Config` and any parameters, and the machine refuses it (R51). That it is refused
when the word is taken, by a step and by an accepting cycle alike, is deduced (log 19). -/
def Obligations.ReservedOpcodeHasNoResult : Prop :=
  (∀ (cfg : Config) (prm : Params) (enabled : Bool) (w : Word),
    0x60000000 ≤ w.toNat → blockStep cfg prm enabled w = none)
  ∧ (∀ (w : Word) (rest : List HostInput) (s : State),
    AtPort s w rest → 0x60000000 ≤ w.toNat → step s = .refused (.reservedOpcode (w.extractLsb' 28 4)))
  ∧ (∀ (i : PortsIn) (p : Pace) (s : State),
    i.rst = false → i.cmdValid = true → withdrawn s i = false → Ready s → 0x60000000 ≤ i.cmd.toNat →
      cycle i p s = .refused (.reservedOpcode (i.cmd.extractLsb' 28 4)))

/-- Operand bits a command does not use are ignored, and of a color operand none is (R40, R52). -/
def Obligations.UnusedOperandBitsAreIgnored : Prop :=
  (∀ arg : BitVec 28, decode (.command (0x0#4 ++ arg)) = .ok .selnone)
  ∧ (∀ (x : BitVec 27) (en : Bool),
      decode (.command (0x2#4 ++ x ++ BitVec.ofBool en)) = .ok (.seten en))
  ∧ (∀ (x : BitVec 12) (ctrl value : Byte),
      decode (.command (0x5#4 ++ x ++ ctrl ++ value)) = .ok (.vcc ctrl value))
  ∧ (∀ color : Color,
      decode (.command (0x1#4 ++ color)) = .ok (.sel color)
      ∧ decode (.command (0x3#4 ++ color)) = .ok (.cccol color)
      ∧ decode (.command (0x4#4 ++ color)) = .ok (.sxcol color))

/-- A block built without the direct commands treats opcodes 3 to 5 as reserved and the mission commands as before
(R5, R75). -/
def Obligations.WithoutDirectCommandsOnlyMissionCommandsRun : Prop :=
  ∀ (cfg : Config) (re enabled : Bool) (w : Word),
    (3 ≤ (w.extractLsb' 28 4).toNat → blockStep cfg ⟨re, false⟩ enabled w = none)
    ∧ ((w.extractLsb' 28 4).toNat < 3 → blockStep cfg ⟨re, false⟩ enabled w = blockStep cfg ⟨re, true⟩ enabled w)

/-- SELNONE does nothing at all, whatever its operand bits and the flag (R77, R92). -/
def Obligations.SelnoneDoesNothing : Prop :=
  (∀ s : State, exec .selnone s = .next s)
  ∧ (∀ (arg : BitVec 28) (rest : List HostInput) (s : State),
      AtPort s (0x0#4 ++ arg) rest → step s = .next { s with inputs := rest })

/-- SETEN writes the flag and nothing else, from bit 0 alone (R79). -/
def Obligations.SetenWritesTheFlagAlone : Prop :=
  (∀ (en : Bool) (s : State), exec (.seten en) s = .next { s with enabled := en })
  ∧ (∀ (x : BitVec 27) (en : Bool) (rest : List HostInput) (s : State),
      AtPort s (0x2#4 ++ x ++ BitVec.ofBool en) rest → step s = .next { s with enabled := en, inputs := rest })

/-- VCC sends the message and its record when the value is in range, and leaves one error record and no message when it is
not; the flag is not read (R82). -/
def Obligations.VccSendsOrRecordsTheRefusal : Prop :=
  ∀ (ctrl value : Byte) (s : State),
    (value.toNat ≤ 127 →
      exec (.vcc ctrl value) s =
        .next { s with
          trace := s.trace ++ [.midi [0xB0#8, ctrl, value], .log 0x2#4 (0#12 ++ ctrl ++ value)] })
    ∧ (128 ≤ value.toNat →
      exec (.vcc ctrl value) s = .next { s with trace := s.trace ++ [.log 0x3#4 (0#12 ++ ctrl ++ value)] })
    ∧ (∀ x : BitVec 12, decode (.command (0x5#4 ++ x ++ ctrl ++ value)) = .ok (.vcc ctrl value))
    ∧ (∀ cfg : Config, effect cfg (.vcc ctrl value) s =
        { s with
          trace := s.trace ++
            if value.toNat ≤ 127 then [.midi [cfg.ccStatus, ctrl, value], .log 0x2#4 (0#12 ++ ctrl ++ value)]
            else [.log 0x3#4 (0#12 ++ ctrl ++ value)] })

/-- CCCOL sends the six messages of the color in order, each followed by its record, when the gate is open, and nothing when
it is closed (R80). -/
def Obligations.CccolSendsTheSixMessages : Prop :=
  ∀ (color : Color) (s : State),
    decode (.command (0x3#4 ++ color)) = .ok (.cccol color)
    ∧ exec (.cccol color) s =
        .next (if s.enabled then { s with trace := s.trace ++ colorMessages Config.default color } else s)
    ∧ ∀ cfg : Config, effect cfg (.cccol color) s =
        if s.enabled then { s with trace := s.trace ++ colorMessages cfg color } else s

/-- SXCOL sends the frame of the color as one message and then its record with all 28 bits, when the gate is open, and
nothing when it is closed (R81). -/
def Obligations.SxcolSendsOneFrame : Prop :=
  ∀ (color : Color) (s : State),
    decode (.command (0x4#4 ++ color)) = .ok (.sxcol color)
    ∧ exec (.sxcol color) s =
        .next (if s.enabled then
          { s with trace := s.trace ++ [.midi (colorFrame Config.default color), .log 0x4#4 color] } else s)
    ∧ ∀ cfg : Config, effect cfg (.sxcol color) s =
        if s.enabled then { s with trace := s.trace ++ [.midi (colorFrame cfg color), .log 0x4#4 color] } else s

/-- SEL sends both formats when the gate is open, and in either case ends with the record of the selection (R78). -/
def Obligations.SelSendsBothFormatsThenItsRecord : Prop :=
  ∀ (color : Color) (s : State),
    decode (.command (0x1#4 ++ color)) = .ok (.sel color)
    ∧ exec (.sel color) s =
        .next { s with
          trace := s.trace
            ++ (if s.enabled then
                  colorMessages Config.default color ++ [.midi (colorFrame Config.default color), .log 0x4#4 color]
                else [])
            ++ [.log 0x1#4 0#28] }
    ∧ ∀ cfg : Config, effect cfg (.sel color) s =
        { s with
          trace := s.trace
            ++ (if s.enabled then colorMessages cfg color ++ [.midi (colorFrame cfg color), .log 0x4#4 color] else [])
            ++ [.log 0x1#4 0#28] }

/-- The six rows of the color messages send three bytes with the nibble in the low bits, and CCCOL sends these six in this
order (R43). That a row run by itself sends its message is the model's choice (log 3). -/
def Obligations.ColorMessageRowsAreTheSixOfAColor : Prop :=
  (∀ (n : Nibble) (s : State),
    exec (.ccRLo n) s = .next { s with trace := s.trace ++ [.midi [0xB0#8, 0x65#8, 0#4 ++ n]] }
    ∧ exec (.ccRHi n) s = .next { s with trace := s.trace ++ [.midi [0xB0#8, 0x64#8, 0#4 ++ n]] }
    ∧ exec (.ccGLo n) s = .next { s with trace := s.trace ++ [.midi [0xB0#8, 0x67#8, 0#4 ++ n]] }
    ∧ exec (.ccGHi n) s = .next { s with trace := s.trace ++ [.midi [0xB0#8, 0x66#8, 0#4 ++ n]] }
    ∧ exec (.ccBLo n) s = .next { s with trace := s.trace ++ [.midi [0xB0#8, 0x69#8, 0#4 ++ n]] }
    ∧ exec (.ccBHi n) s = .next { s with trace := s.trace ++ [.midi [0xB0#8, 0x68#8, 0#4 ++ n]] })
  ∧ (∀ color : Color,
    messages (eventsOf Config.default true (.cccol color)) =
      [[0xB0#8, 0x65#8, 0#4 ++ color.extractLsb' 16 4], [0xB0#8, 0x64#8, 0#4 ++ color.extractLsb' 20 4],
       [0xB0#8, 0x67#8, 0#4 ++ color.extractLsb' 8 4], [0xB0#8, 0x66#8, 0#4 ++ color.extractLsb' 12 4],
       [0xB0#8, 0x69#8, 0#4 ++ color.extractLsb' 0 4], [0xB0#8, 0x68#8, 0#4 ++ color.extractLsb' 4 4]])

/-- The row of any other CC message sends status, controller as given, and a value with bit 7 clear (R42). That a row run by
itself sends its message is the model's choice (log 3). -/
def Obligations.GenericMessageRowSendsThreeBytes : Prop :=
  ∀ (ctrl : Byte) (value : Septet) (s : State),
    exec (.ccGeneric ctrl value) s = .next { s with trace := s.trace ++ [.midi [0xB0#8, ctrl, 0#1 ++ value]] }

/-- The row of the SysEx frame sends the eight bytes as one message (R44), and SXCOL's frame is that row's with the color's
groups (R50). That a row run by itself sends its message is the model's choice (log 3). -/
def Obligations.SysexRowSendsEightBytes : Prop :=
  (∀ (d0 d1 d2 d3 : Septet) (s : State),
    exec (.sysexColor d0 d1 d2 d3) s =
      .next { s with
        trace := s.trace ++ [.midi [0xF0#8, 0x64#8, 0x01#8, 0#1 ++ d0, 0#1 ++ d1, 0#1 ++ d2, 0#1 ++ d3, 0xF7#8]] })
  ∧ (∀ (cfg : Config) (color : Color),
    encsx cfg color =
      sysexFrame cfg (color.extractLsb' 0 7) (color.extractLsb' 7 7) (color.extractLsb' 14 7) (color.extractLsb' 21 7))

/-- The rows of the log records emit one record of their code and payload, whose 32-bit word is the code above the payload
(R46, R47). That a row run by itself emits its record is the model's choice (log 3). -/
def Obligations.RecordRowsEmitOneRecord : Prop :=
  (∀ s : State, exec .logSelChanged s = .next { s with trace := s.trace ++ [.log 0x1#4 0#28] })
  ∧ (∀ (ctrl value : Byte) (s : State),
      exec (.logCcSent ctrl value) s = .next { s with trace := s.trace ++ [.log 0x2#4 (0#12 ++ ctrl ++ value)] }
      ∧ exec (.logCcRangeErr ctrl value) s = .next { s with trace := s.trace ++ [.log 0x3#4 (0#12 ++ ctrl ++ value)] })
  ∧ (∀ (color : Color) (s : State), exec (.logSxSent color) s = .next { s with trace := s.trace ++ [.log 0x4#4 color] })
  ∧ (∀ (code : Nibble) (payload : BitVec 28), (Event.log code payload).record = some (code ++ payload))

/-- CHAN gives the three channels and ignores the bits above 23; shifting them back gives the 24-bit color (R61). -/
def Obligations.ChanExtractsTheChannels : Prop :=
  ∀ color : Color,
    chan color = (color.extractLsb' 16 8, color.extractLsb' 8 8, color.extractLsb' 0 8)
    ∧ chan color = chan (rgb color)
    ∧ unchan (chan color).1 (chan color).2.1 (chan color).2.2 = rgb color

/-- NIB gives the two halves of a channel, the low one first (R62). -/
def Obligations.NibSplitsAChannel : Prop :=
  ∀ ch : Byte, nib ch = (ch.extractLsb' 0 4, ch.extractLsb' 4 4)

/-- NIB is a bijection with inverse UNNIB, which is the concatenation of high and low (R63). -/
def Obligations.NibIsABijection : Prop :=
  (∀ ch : Byte, unnib (nib ch).1 (nib ch).2 = ch)
  ∧ (∀ lo hi : Nibble, nib (unnib lo hi) = (lo, hi) ∧ unnib lo hi = hi ++ lo)

/-- ENCCC gives six pairs of a controller and a nibble of the color, low before high and red before green before blue, for
every `Config`; the bits above 23 are ignored (R64). -/
def Obligations.EncccGivesTheSixPairs : Prop :=
  ∀ (cfg : Config) (color : Color),
    enccc cfg color =
      [(cfg.ccRLo, color.extractLsb' 16 4), (cfg.ccRHi, color.extractLsb' 20 4),
       (cfg.ccGLo, color.extractLsb' 8 4), (cfg.ccGHi, color.extractLsb' 12 4),
       (cfg.ccBLo, color.extractLsb' 0 4), (cfg.ccBHi, color.extractLsb' 4 4)]
    ∧ enccc cfg color = enccc cfg (rgb color)
    ∧ enccc Config.default color =
        [(101#8, color.extractLsb' 16 4), (100#8, color.extractLsb' 20 4),
         (103#8, color.extractLsb' 8 4), (102#8, color.extractLsb' 12 4),
         (105#8, color.extractLsb' 0 4), (104#8, color.extractLsb' 4 4)]

/-- ENCCC always has six entries on the six controllers, every value passes the validator, and the values determine the
24-bit color (R65). -/
def Obligations.EncccDeterminesTheColor : Prop :=
  ∀ color : Color,
    (enccc Config.default color).map Prod.fst = [101#8, 100#8, 103#8, 102#8, 105#8, 104#8]
    ∧ (∀ pair ∈ enccc Config.default color, pair.2.toNat ≤ 15 ∧ valid7 (nibbleByte pair.2) = true)
    ∧ unenccc ((enccc Config.default color).map Prod.snd) = some (color.extractLsb' 0 24)
    ∧ (∀ other : Color, enccc Config.default other = enccc Config.default color → rgb other = rgb color)

/-- ENCSX gives the eight bytes of the frame for every `Config` (R66). -/
def Obligations.EncsxGivesTheFrame : Prop :=
  ∀ (cfg : Config) (color : Color),
    encsx cfg color = colorFrame cfg color
    ∧ encsx Config.default color =
        [0xF0#8, 0x64#8, 0x01#8, 0#1 ++ color.extractLsb' 0 7, 0#1 ++ color.extractLsb' 7 7,
         0#1 ++ color.extractLsb' 14 7, 0#1 ++ color.extractLsb' 21 7, 0xF7#8]
    ∧ (color = rgb color → (encsx cfg color)[6]? = some (0#5 ++ color.extractLsb' 21 3))

/-- ENCSX always has eight bytes with the default header and trailer, its data bytes are 7-bit clean and determine all 28 bits
of the color, and the last of them is at most 7 for a 24-bit color (R67). -/
def Obligations.EncsxDeterminesTheColor : Prop :=
  ∀ color : Color,
    (encsx Config.default color).length = 8
    ∧ (encsx Config.default color).take 3 = [0xF0#8, 100#8, 0x01#8]
    ∧ (encsx Config.default color).getLast? = some 0xF7#8
    ∧ (∀ b ∈ ((encsx Config.default color).drop 3).take 4, b.toNat ≤ 0x7F)
    ∧ unencsx (encsx Config.default color) = some color
    ∧ (∀ other : Color, encsx Config.default other = encsx Config.default color → other = color)
    ∧ (color = rgb color → ∀ b ∈ ((encsx Config.default color).drop 6).take 1, b.toNat ≤ 7)

/-- VALID7 is true on 0 to 127 and false on 128 to 255, which is bit 7 being clear (R70). -/
def Obligations.ValidatorTestsBitSeven : Prop :=
  ∀ value : Byte,
    (value.toNat ≤ 127 → valid7 value = true)
    ∧ (128 ≤ value.toNat → valid7 value = false)
    ∧ valid7 value = !value.getLsbD 7

/-- The five pure operations run by themselves: each drives its result on its output ports and changes nothing else, so that
no state, no event and no exception comes of it (R39, R60, R68, R70). That a row of them is run by itself, and the field that
holds its result, are the model's choice (log 3). -/
def Obligations.PureOperationsDriveTheirPorts : Prop :=
  ∀ (color : Color) (ch value : Byte) (s : State),
    exec (.chan color) s =
        .next { s with
          probe := some (.channels (color.extractLsb' 16 8) (color.extractLsb' 8 8) (color.extractLsb' 0 8)) }
    ∧ exec (.nib ch) s = .next { s with probe := some (.nibbles (ch.extractLsb' 0 4) (ch.extractLsb' 4 4)) }
    ∧ exec (.enccc color) s =
        .next { s with
          probe := some (.ccPairs
            [(101#8, color.extractLsb' 16 4), (100#8, color.extractLsb' 20 4),
             (103#8, color.extractLsb' 8 4), (102#8, color.extractLsb' 12 4),
             (105#8, color.extractLsb' 0 4), (104#8, color.extractLsb' 4 4)]) }
    ∧ exec (.encsx color) s =
        .next { s with
          probe := some (.sxBytes
            [0xF0#8, 0x64#8, 0x01#8, 0#1 ++ color.extractLsb' 0 7, 0#1 ++ color.extractLsb' 7 7,
             0#1 ++ color.extractLsb' 14 7, 0#1 ++ color.extractLsb' 21 7, 0xF7#8]) }
    ∧ exec (.valid7 value) s = .next { s with probe := some (.verdict (!value.getLsbD 7)) }

/-- EVERY INSTRUCTION COMPLETES in every state: `exec` is the row's effect for the default `Config` (of the six commands R9,
R85). That the seventeen rows without a command word run and complete by themselves is the model's choice (log 3). -/
def Obligations.EveryInstructionCompletes : Prop :=
  ∀ (i : Instr) (s : State), exec i s = .next (effect Config.default i s)

/-- What a row does depends on the configuration, the flag and the row alone, and it adds events after the ones there are;
what the host presents, the signal level and the bench are left (R9, R16, R18). The ports of the sub-blocks show what a pure
operation drives, a function of the configuration and the row, and every other row leaves them. That rows without a command word
run by themselves, the bench and the ports' field are the model's choice (log 3). -/
def Obligations.EffectDependsOnTheFlagAndTheRowAlone : Prop :=
  ∀ (cfg : Config) (i : Instr) (s : State),
    (effect cfg i s).trace = s.trace ++ eventsOf cfg s.enabled i
    ∧ (effect cfg i s).enabled = enabledAfter cfg s.enabled i
    ∧ (effect cfg i s).inputs = s.inputs
    ∧ (effect cfg i s).signal = s.signal
    ∧ (effect cfg i s).bench = s.bench
    ∧ (effect cfg i s).probe = (if isPureOperation i then drivenBy cfg i else s.probe)
    ∧ (isPureOperation i = true → (drivenBy cfg i).isSome = true)

/-- SEL is CCCOL, then SXCOL, then the record of the selection, for either value of the flag; CCCOL is VCC on each pair
(R84 a, b). -/
def Obligations.SelIsItsParts : Prop :=
  ∀ (cfg : Config) (enabled : Bool) (color : Color),
    eventsOf cfg enabled (.sel color) =
      eventsOf cfg enabled (.cccol color) ++ eventsOf cfg enabled (.sxcol color) ++ [.log 0x1#4 0#28]
    ∧ eventsOf cfg true (.cccol color) =
        (enccc cfg color).flatMap fun pair => eventsOf cfg true (.vcc pair.1 (pair.2.setWidth 8))

/-- The closed gate skips both wire formats and nothing else: SEL still leaves its record, and VCC runs as when the gate is
open (R76, R84 c). -/
def Obligations.ClosedGateSkipsBothFormats : Prop :=
  ∀ (cfg : Config) (color : Color) (ctrl value : Byte),
    eventsOf cfg false (.cccol color) = []
    ∧ eventsOf cfg false (.sxcol color) = []
    ∧ eventsOf cfg false (.sel color) = [.log 0x1#4 0#28]
    ∧ eventsOf cfg false (.vcc ctrl value) = eventsOf cfg true (.vcc ctrl value)

/-- No row but SETEN changes the flag (R10, R84 d). -/
def Obligations.OnlySetenChangesTheFlag : Prop :=
  ∀ (i : Instr) (s t : State), exec i s = .next t → t.enabled ≠ s.enabled → ∃ en, i = .seten en ∧ t.enabled = en

/-- SEL and CCCOL never leave the record of a refused value, with any `Config` (R72, R84 e). -/
def Obligations.ColorPathNeverRefusesAValue : Prop :=
  ∀ (cfg : Config) (enabled : Bool) (color : Color),
    (∀ e ∈ eventsOf cfg enabled (.sel color), isRangeError e = false)
    ∧ (∀ e ∈ eventsOf cfg enabled (.cccol color), isRangeError e = false)

/-- Every message of SEL, CCCOL and SXCOL has bit 7 clear in every byte but its first and, of the frame, its last, for the
default `Config` (R84 f, R54). -/
def Obligations.ColorMessagesAreStreamable : Prop :=
  ∀ (enabled : Bool) (color : Color),
    (∀ m ∈ messages (eventsOf Config.default enabled (.sel color)), streamable m = true)
    ∧ (∀ m ∈ messages (eventsOf Config.default enabled (.cccol color)), streamable m = true)
    ∧ (∀ m ∈ messages (eventsOf Config.default enabled (.sxcol color)), streamable m = true)

/-- The bits of a color above 23 reach only the SysEx path, which loses none of the 28 (R84 g). -/
def Obligations.UpperColorBitsReachOnlySysex : Prop :=
  ∀ (cfg : Config) (color other : Color) (s : State),
    effect cfg (.cccol color) s = effect cfg (.cccol (rgb color)) s
    ∧ (eventsOf cfg true (.sxcol color) = eventsOf cfg true (.sxcol other) → color = other)
    ∧ (encsx cfg color).take 6 = (encsx cfg (rgb color)).take 6

/-- The messages of SEL determine the 24-bit color twice and all 28 bits once, for every `Config` (R84 h). -/
def Obligations.SelMessagesDetermineTheColor : Prop :=
  ∀ (cfg : Config) (color : Color),
    unenccc (((messages (eventsOf cfg true (.sel color))).take 6).map fun m => (m.getD 2 0#8).setWidth 4)
        = some (color.extractLsb' 0 24)
    ∧ unencsx ((messages (eventsOf cfg true (.sel color))).getD 6 []) = some color

/-- The counts of messages, bytes and records of every command for both values of the flag, and the new flag; every message
is followed at once by its success record, and the other records are the error record of a refused value and the record of a
selection (R83). -/
def Obligations.EventCountsOfEveryCommand : Prop :=
  ∀ (cfg : Config) (e en : Bool) (color : Color) (ctrl value : Byte),
    (eventsOf cfg e .selnone = [] ∧ enabledAfter cfg e .selnone = e)
    ∧ (messageCount (eventsOf cfg true (.sel color)) = 7
        ∧ (midiStream (eventsOf cfg true (.sel color))).length = 26
        ∧ recordCount (eventsOf cfg true (.sel color)) = 8
        ∧ messageCount (eventsOf cfg false (.sel color)) = 0
        ∧ recordCount (eventsOf cfg false (.sel color)) = 1
        ∧ enabledAfter cfg e (.sel color) = e)
    ∧ (eventsOf cfg e (.seten en) = [] ∧ enabledAfter cfg e (.seten en) = en)
    ∧ (messageCount (eventsOf cfg true (.cccol color)) = 6
        ∧ (midiStream (eventsOf cfg true (.cccol color))).length = 18
        ∧ recordCount (eventsOf cfg true (.cccol color)) = 6
        ∧ eventsOf cfg false (.cccol color) = []
        ∧ enabledAfter cfg e (.cccol color) = e)
    ∧ (messageCount (eventsOf cfg true (.sxcol color)) = 1
        ∧ (midiStream (eventsOf cfg true (.sxcol color))).length = 8
        ∧ recordCount (eventsOf cfg true (.sxcol color)) = 1
        ∧ eventsOf cfg false (.sxcol color) = []
        ∧ enabledAfter cfg e (.sxcol color) = e)
    ∧ (value.toNat ≤ 127 →
        messageCount (eventsOf cfg e (.vcc ctrl value)) = 1
        ∧ (midiStream (eventsOf cfg e (.vcc ctrl value))).length = 3
        ∧ recordCount (eventsOf cfg e (.vcc ctrl value)) = 1)
    ∧ (128 ≤ value.toNat →
        messageCount (eventsOf cfg e (.vcc ctrl value)) = 0
        ∧ recordCount (eventsOf cfg e (.vcc ctrl value)) = 1
        ∧ eventsOf cfg e (.vcc ctrl value) = [.log 0x3#4 (0#12 ++ ctrl ++ value)])
    ∧ enabledAfter cfg e (.vcc ctrl value) = e
    ∧ (∀ (prm : Params) (w : Word) (i : Instr), decodeCommand prm w = .ok i →
        paired cfg (eventsOf cfg e i) = true
        ∧ ∀ (code : Nibble) (payload : BitVec 28), .log code payload ∈ eventsOf cfg e i →
            code = 0x1#4 ∨ code = 0x2#4 ∨ code = 0x3#4 ∨ code = 0x4#4)

/-- A refused VCC leaves its one record in its place in a run, and everything before and after it is as without it
(R90, R96, R97). -/
def Obligations.RefusedValueDoesNotDisturbARun : Prop :=
  ∀ (cfg : Config) (prm : Params) (e e1 : Bool) (es1 : List Event) (before after : List Word)
    (x : BitVec 12) (ctrl value : Byte),
    prm.directCommands = true → 128 ≤ value.toNat → blockRun cfg prm e before = some (e1, es1) →
      blockRun cfg prm e (before ++ (0x5#4 ++ x ++ ctrl ++ value) :: after) =
        (blockRun cfg prm e1 after).map fun r => (r.1, es1 ++ .log 0x3#4 (0#12 ++ ctrl ++ value) :: r.2)

/-- The same command twice emits its events twice: nothing is remembered, merged or suppressed (R11, R28). -/
def Obligations.SameCommandTwiceEmitsTwice : Prop :=
  ∀ (cfg : Config) (prm : Params) (e e' : Bool) (es : List Event) (w : Word),
    blockStep cfg prm e w = some (e', es) → blockRun cfg prm e [w, w] = some (e', es ++ es)

/-- A SETEN takes effect for the very next command, whatever the flag was before (R34, R113). -/
def Obligations.SetenTakesEffectForTheNextCommand : Prop :=
  ∀ (cfg : Config) (prm : Params) (e en : Bool) (x : BitVec 27) (w : Word),
    blockRun cfg prm e [0x2#4 ++ x ++ BitVec.ofBool en, w] = blockStep cfg prm en w

/-- A STEP RUNS THE DECODED INSTRUCTION: of a command word at the command port, of a row placed on the bench, and of a word of
the opcode table that `withFetchWord` places (R9, R75). The bench, from which a row without a command word is run, is the
model's choice (log 3); so is the third clause: that `withFetchWord` stands for the host and takes a command in flight and a row
on the bench away (log 21), and that a 32-bit table word is a command word (log 4). -/
def Obligations.StepRunsTheDecodedInstruction : Prop :=
  (∀ (w : Word) (rest : List HostInput) (i : Instr) (s : State),
    AtPort s w rest → decode (.command w) = .ok i → step s = exec i { s with inputs := rest })
  ∧ (∀ (u : SubWord) (i : Instr) (s : State),
    s.signal.flight = none → s.bench = some u → decode (.sub u) = .ok i → step s = exec i { s with bench := none })
  ∧ (∀ (nbits w : Nat) (i : Instr) (s : State),
    decodeTableWord nbits w = some i →
      step (s.withFetchWord nbits w) = exec i { s with bench := none, signal := { s.signal with flight := none } })

/-- With nothing presented and nothing pending the block stays as it is and emits nothing (R86, R102). That a step then
answers the same state is the model's choice (log 6). -/
def Obligations.IdleStepChangesNothing : Prop :=
  ∀ s : State, s.signal.flight = none → s.bench = none → s.inputs = [] → step s = .next s

/-- The state after reset: the flag is 1 and the trace is empty (R106), `enabled_o` is the flag (R19), no command is in flight and
`cmd_ready` is 1 (R17, R105). -/
def Obligations.ResetStateIsEnabledAndSilent : Prop :=
  State.reset.enabled = Params.default.resetEnabled ∧ State.reset.enabled = true ∧ State.reset.trace = []
  ∧ State.reset.enabledOut = true ∧ State.reset.signal.flight = none ∧ State.reset.cmdReady false = true

/-- A reset between commands leaves the reset state, from any flag and trace; what the host still presents stays, and so does
the model's cycle count (R105, R106; the two that stay are the model's choice, log 7). -/
def Obligations.ResetStepLeavesTheResetState : Prop :=
  ∀ (rest : List HostInput) (s : State),
    s.signal.flight = none → s.bench = none → s.inputs = .reset :: rest →
      step s = .next { State.reset with
        inputs := rest, signal := { flight := none, waiting := none, settled := true, tick := s.signal.tick } }

/-- A step with a command in flight presents the rest of its events in order and accepts nothing. That a step of the transaction
level meets a command in flight, and then does this, is the model's choice (log 13): R16 gives that level none. -/
def Obligations.StepCompletesTheCommandInFlight : Prop :=
  ∀ (f : Flight) (s : State), s.signal.flight = some f →
    step s = .next { s with trace := s.trace ++ f.events, signal := { s.signal with flight := none } }

/-- THE MACHINE'S RUN IS THE SPEC'S RUN: on every list of command words the machine reaches the flag and adds the trace that
the steps of R9 give one after another, and refuses exactly the lists that contain a reserved opcode (R9, R31, R51). -/
def Obligations.MachineRunIsTheSpecRun : Prop :=
  ∀ (ws : List Word) (s : State),
    s.signal.flight = none → s.bench = none → s.inputs = ws.map HostInput.command →
      (∀ (e : Bool) (es : List Event),
        blockRun Config.default Params.default s.enabled ws = some (e, es) →
          Host.Core.run Sys2Proof.core ws.length s =
            .next ({ s with enabled := e, trace := s.trace ++ es, inputs := [] } : State))
      ∧ (blockRun Config.default Params.default s.enabled ws = none →
          ∃ op : Nibble, Host.Core.run Sys2Proof.core ws.length s = .refused (Refusal.reservedOpcode op))

/-- EVERY STEP KEEPS the outputs well formed: every message is a CC message of three bytes with a value of at most 127 or the
frame of eight bytes, and every record has one of the four codes with zeros where they are always zero (R21, R42, R45, R53). -/
def Obligations.OutputsStayWellFormed : Prop :=
  ∀ s s' : State, outputsOk s = true → step s = .next s' → outputsOk s' = true

/-- EVERY STEP KEEPS the trace paired, from a machine at rest: each message is followed at once by its own success record and
no success record stands alone (R30, R83). -/
def Obligations.TraceStaysPaired : Prop :=
  ∀ s s' : State, PairedAtRest s → step s = .next s' → PairedAtRest s'

/-- The state after reset meets the invariants: well-formed outputs, a paired trace at rest, a position the sequencer can be
in, and a reset edge has passed. -/
def Obligations.ResetMeetsTheInvariants : Prop :=
  outputsOk State.reset = true ∧ PairedAtRest State.reset ∧ State.reset.flightOk = true ∧ Ready State.reset

/-- The log tells every message: from the records alone that a run of command words leaves, the messages of the run are
recovered, all of them and in order, with any `Config` and any parameters (R99). -/
def Obligations.LogTellsEveryMessage : Prop :=
  ∀ (cfg : Config) (prm : Params) (e e' : Bool) (ws : List Word) (es : List Event),
    blockRun cfg prm e ws = some (e', es) → messages es = (logRecords es).filterMap (messageOfRecord cfg)

/-- A receiver of the bare byte stream that goes by the first byte of each message recovers the messages (R54). -/
def Obligations.ReceiverSplitsTheByteStream : Prop :=
  ∀ es : List Event, (∀ m ∈ messages es, streamable m = true) → splitStream [] (midiStream es) = messages es

/-- The command port (R35, R102): while no command is in flight `cmd_ready` is 1, whatever is presented. A command that is
presented is accepted, the flag changes at that edge, and its events are all still to come; with nothing presented nothing is
accepted and nothing changes. That the accepting cycle itself presents nothing is the model's choice (log 8). -/
def Obligations.CommandIsAcceptedWhenReady : Prop :=
  (∀ (i : PortsIn) (p : Pace) (s : State) (e : Bool) (es : List Event),
    i.rst = false → i.cmdValid = true → withdrawn s i = false → Ready s →
    blockStep Config.default Params.default s.enabled i.cmd = some (e, es) →
      ∃ o : PortsOut,
        cycle i p s =
          .next ({ s with
            enabled := e
            signal :=
              { flight := if es = [] ∧ p.hold = false then none else some { word := i.cmd, events := es, sent := 0 }
                waiting := none
                settled := true
                tick := s.signal.tick + 1 } }, o)
        ∧ o.cmdReady = true ∧ o.midiValid = false ∧ o.logValid = false ∧ o.enabledO = s.enabled)
  ∧ (∀ (i : PortsIn) (p : Pace) (s : State),
    i.rst = false → i.cmdValid = false → withdrawn s i = false → Ready s →
      ∃ o : PortsOut,
        cycle i p s =
          .next ({ s with
            signal := { flight := none, waiting := none, settled := true, tick := s.signal.tick + 1 } }, o)
        ∧ o.cmdReady = true ∧ o.midiValid = false ∧ o.logValid = false ∧ o.enabledO = s.enabled)

/-- While a command is in flight nothing is accepted, a command that is presented waits, the flag keeps its value, and what has
been presented together with what is still to be presented stays the same (R28, R30, R35, R110). -/
def Obligations.BusyCycleOnlyPresents : Prop :=
  ∀ (i : PortsIn) (p : Pace) (f : Flight) (s s' : State) (o : PortsOut),
    InFlight s f → cycle i p s = .next (s', o) →
      o.cmdReady = false ∧ o.enabledO = s.enabled
      ∧ s'.signal.waiting = (if i.cmdValid then some i.cmd else none)
      ∧ s'.enabled = s.enabled ∧ s'.inputs = s.inputs ∧ s'.complete.trace = s.complete.trace

/-- EVERY CYCLE AND EVERY STEP KEEPS the sequencer at a position the block can reach (R16, R36), and a block that a reset edge
has passed stays one (R108). -/
def Obligations.SequencerPositionIsKept : Prop :=
  (∀ (i : PortsIn) (p : Pace) (s s' : State) (o : PortsOut), cycle i p s = .next (s', o) →
    (s.flightOk = true → s'.flightOk = true) ∧ (s.signal.settled = true → s'.signal.settled = true))
  ∧ (∀ s s' : State, step s = .next s' →
    (s.flightOk = true → s'.flightOk = true) ∧ (s.signal.settled = true → s'.signal.settled = true))

/-- THE WIRES TELL THE TRACE: whatever pace the implementation takes, the events recovered from the two output ports by the
rule of R32 are exactly the events that the run adds to the trace, in order. In each cycle a byte that is presented is the next
one of the first message in flight, the first byte and no other has `midi_sop`, the last and no other has `midi_eop`, and a record
that is presented is the next one in flight (R32, R36, R37). -/
def Obligations.WiresTellTheTrace : Prop :=
  (∀ (drive : List (PortsIn × Pace)) (s s' : State) (samples : List Sample),
    s.signal.settled = true → (∀ x ∈ drive, x.1.rst = false) → runCycles drive s = .next (s', samples) →
      s'.trace = s.trace ++ recover (partMessage s) samples)
  ∧ (∀ (i : PortsIn) (p : Pace) (f : Flight) (s s' : State) (o : PortsOut),
    InFlight s f → cycle i p s = .next (s', o) →
      (o.midiValid = true → ∃ bytes : List Byte, firstMessage f.events = some bytes
        ∧ bytes[f.sent]? = some o.midiData
        ∧ o.midiSop = decide (f.sent = 0)
        ∧ o.midiEop = decide (f.sent + 1 = bytes.length))
      ∧ (o.logValid = true → (logRecords f.events).head? = some o.logRec))

/-- THE SIGNAL LEVEL REFINES THE TRANSACTION LEVEL: whatever the host presents and whatever pace the implementation takes, the
commands accepted at the port, run one after another as the spec's steps, give the flag, and with the command in flight
completed they give the trace (R9, R31, R35). -/
def Obligations.SignalLevelRefinesTheTransactionLevel : Prop :=
  ∀ (drive : List (PortsIn × Pace)) (s s' : State) (samples : List Sample),
    s.signal.settled = true → (∀ x ∈ drive, x.1.rst = false) → runCycles drive s = .next (s', samples) →
      ∃ es : List Event,
        blockRun Config.default Params.default s.enabled (acceptedCommands samples) = some (s'.enabled, es)
        ∧ s'.complete.trace = s.complete.trace ++ es

/-- A command in flight completes in finitely many cycles with no help from outside (R114 a), at the fastest pace and under a host
that presents nothing and has nothing waiting: an implementation that presents whenever it can needs at most one cycle for each
byte and record that is left, and one more. The bound is the model's choice: it is for that pace alone (log 16, log 18), and
that the block is ready in the very cycle after the last event is R35's reading where R114 leaves it open (log 25). -/
def Obligations.CommandInFlightCompletes : Prop :=
  ∀ s : State, s.signal.settled = true → s.flightOk = true → s.signal.waiting = none →
    ∃ (n : Nat) (s' : State) (samples : List Sample),
      n ≤ bytesLeft s + recordsLeft s + 1
      ∧ runCycles (List.replicate n (quiet, fullPace)) s = .next (s', samples)
      ∧ s'.signal.flight = none ∧ s'.trace = s.complete.trace

/-- One byte and one record at most in a cycle, and none lost: what is left of a command in flight goes down by exactly what the
ports present, from 26 bytes for an enabled SEL, 18 for CCCOL, 8 for SXCOL and 3 for a valid VCC (R36, R37, R115). -/
def Obligations.BytesLeaveOneACycle : Prop :=
  (∀ (i : PortsIn) (p : Pace) (f : Flight) (s s' : State) (o : PortsOut),
    InFlight s f → f.ok = true → cycle i p s = .next (s', o) →
      bytesLeft s = bytesLeft s' + (if o.midiValid then 1 else 0)
      ∧ recordsLeft s = recordsLeft s' + (if o.logValid then 1 else 0))
  ∧ (∀ (cfg : Config) (color : Color) (ctrl value : Byte),
      bytesOf (eventsOf cfg true (.sel color)) = 26
      ∧ bytesOf (eventsOf cfg true (.cccol color)) = 18
      ∧ bytesOf (eventsOf cfg true (.sxcol color)) = 8
      ∧ (value.toNat ≤ 127 → bytesOf (eventsOf cfg true (.vcc ctrl value)) = 3))

/-- The reset edge leaves the reset state from any state. A cycle with `rst = 1` accepts nothing, whatever is presented (R95,
R105), leaves the reset state, and presents nothing once a reset edge has passed (R17); in the middle of a command it is the fault
of the run (R107, U5), but as the block comes up the first such cycle goes through whatever the unspecified state is (R108). -/
def Obligations.ResetCycleWins : Prop :=
  (∀ s : State,
    s.resetEdge.enabled = true ∧ s.resetEdge.trace = [] ∧ Ready s.resetEdge ∧ s.resetEdge.cmdReady false = true)
  ∧ (∀ (i : PortsIn) (p : Pace) (s : State), i.rst = true → withdrawn s i = false → Ready s →
      ∃ (s' : State) (o : PortsOut),
        cycle i p s = .next (s', o) ∧ o.cmdReady = false ∧ o.midiValid = false ∧ o.logValid = false
        ∧ o.enabledO = s.enabled ∧ s'.enabled = true ∧ s'.trace = [] ∧ Ready s'
        ∧ s'.signal.waiting = (if i.cmdValid then some i.cmd else none))
  ∧ (∀ (i : PortsIn) (p : Pace) (s : State), i.rst = true →
      ∃ (s' : State) (o : PortsOut),
        cycle i p s.powerUp = .next (s', o) ∧ o.cmdReady = false
        ∧ s'.enabled = true ∧ s'.trace = [] ∧ Ready s')
  ∧ (∀ (i : PortsIn) (p : Pace) (f : Flight) (s : State), i.rst = true → withdrawn s i = false → InFlight s f →
      cycle i p s = .fault .resetInFlight)

/-- A host that withdraws or changes a command it has presented and that was not accepted is refused, in reset or out of it
(R110, U9). -/
def Obligations.WithdrawnCommandIsRefused : Prop :=
  ∀ (i : PortsIn) (p : Pace) (s : State) (w : Word),
    s.signal.waiting = some w → (i.cmdValid = false ∨ i.cmd ≠ w) →
      cycle i p s = .refused (.commandWithdrawn i.cmd)

/-- The assembler: a line within its limits is the command word of its command with its operands and with every ignored bit
zero, a line outside them is an error, and the pseudo-commands are the commands they stand for (R55, R56). -/
def Obligations.AssembledLinesAreTheirCommands : Prop :=
  assembleLine .selnone = .command 0x00000000#32
  ∧ assembleLine .enable = assembleLine (.seten 1)
  ∧ assembleLine .disable = assembleLine (.seten 0)
  ∧ (∀ en : Nat, assembleLine (.seten en) =
      if en ≤ 1 then .command (0x20000000#32 ||| BitVec.ofNat 32 en) else .wrong)
  ∧ (∀ color : Nat,
      assembleLine (.sel color) =
          (if color ≤ 0xFFFFFFF then .command (0x10000000#32 ||| BitVec.ofNat 32 color) else .wrong)
      ∧ assembleLine (.cccol color) =
          (if color ≤ 0xFFFFFFF then .command (0x30000000#32 ||| BitVec.ofNat 32 color) else .wrong)
      ∧ assembleLine (.sxcol color) =
          (if color ≤ 0xFFFFFFF then .command (0x40000000#32 ||| BitVec.ofNat 32 color) else .wrong))
  ∧ (∀ ctrl value : Nat, assembleLine (.vcc ctrl value) =
      if ctrl ≤ 255 ∧ value ≤ 255 then
        .command (0x50000000#32 ||| (BitVec.ofNat 32 ctrl <<< 8) ||| BitVec.ofNat 32 value)
      else .wrong)
  ∧ (∀ r g b : Nat, assembleLine (.selRgb r g b) =
      if r ≤ 255 ∧ g ≤ 255 ∧ b ≤ 255 then assembleLine (.sel (r * 65536 + g * 256 + b)) else .wrong)
  ∧ (∀ color : Nat, color ≤ 0xFFFFFFF →
      decode (.command (0x10000000#32 ||| BitVec.ofNat 32 color)) = .ok (.sel (BitVec.ofNat 28 color))
      ∧ decode (.command (0x30000000#32 ||| BitVec.ofNat 32 color)) = .ok (.cccol (BitVec.ofNat 28 color))
      ∧ decode (.command (0x40000000#32 ||| BitVec.ofNat 32 color)) = .ok (.sxcol (BitVec.ofNat 28 color)))
  ∧ (∀ ctrl value : Nat, ctrl ≤ 255 → value ≤ 255 →
      decode (.command (0x50000000#32 ||| (BitVec.ofNat 32 ctrl <<< 8) ||| BitVec.ofNat 32 value)) =
        .ok (.vcc (BitVec.ofNat 8 ctrl) (BitVec.ofNat 8 value)))
end

