-- ==== Sys2Proof/Laws/State.lean ====
section
/-! SUPPORT. The small lemmas of the state: one per field per named update. -/

namespace Sys2Proof.Machine

@[simp] theorem State.emit_enabled (s : State) (es : List Event) : (s.emit es).enabled = s.enabled := rfl
@[simp] theorem State.emit_trace (s : State) (es : List Event) : (s.emit es).trace = s.trace ++ es := rfl
@[simp] theorem State.emit_inputs (s : State) (es : List Event) : (s.emit es).inputs = s.inputs := rfl
@[simp] theorem State.emit_signal (s : State) (es : List Event) : (s.emit es).signal = s.signal := rfl
@[simp] theorem State.emit_bench (s : State) (es : List Event) : (s.emit es).bench = s.bench := rfl
@[simp] theorem State.emit_probe (s : State) (es : List Event) : (s.emit es).probe = s.probe := rfl

@[simp] theorem State.midiSend_enabled (s : State) (bytes : List Byte) : (s.midiSend bytes).enabled = s.enabled := rfl
@[simp] theorem State.midiSend_trace (s : State) (bytes : List Byte) : (s.midiSend bytes).trace = s.trace ++ [.midi bytes] := rfl
@[simp] theorem State.midiSend_inputs (s : State) (bytes : List Byte) : (s.midiSend bytes).inputs = s.inputs := rfl
@[simp] theorem State.midiSend_signal (s : State) (bytes : List Byte) : (s.midiSend bytes).signal = s.signal := rfl
@[simp] theorem State.midiSend_bench (s : State) (bytes : List Byte) : (s.midiSend bytes).bench = s.bench := rfl
@[simp] theorem State.midiSend_probe (s : State) (bytes : List Byte) : (s.midiSend bytes).probe = s.probe := rfl

@[simp] theorem State.logEmit_enabled (s : State) (code : Nibble) (payload : BitVec 28) : (s.logEmit code payload).enabled = s.enabled := rfl
@[simp] theorem State.logEmit_trace (s : State) (code : Nibble) (payload : BitVec 28) : (s.logEmit code payload).trace = s.trace ++ [.log code payload] := rfl
@[simp] theorem State.logEmit_inputs (s : State) (code : Nibble) (payload : BitVec 28) : (s.logEmit code payload).inputs = s.inputs := rfl
@[simp] theorem State.logEmit_signal (s : State) (code : Nibble) (payload : BitVec 28) : (s.logEmit code payload).signal = s.signal := rfl
@[simp] theorem State.logEmit_bench (s : State) (code : Nibble) (payload : BitVec 28) : (s.logEmit code payload).bench = s.bench := rfl
@[simp] theorem State.logEmit_probe (s : State) (code : Nibble) (payload : BitVec 28) : (s.logEmit code payload).probe = s.probe := rfl

@[simp] theorem State.raiseOutOfRange_enabled (s : State) (ctrl value : Byte) : (s.raiseOutOfRange ctrl value).enabled = s.enabled := rfl
@[simp] theorem State.raiseOutOfRange_trace (s : State) (ctrl value : Byte) : (s.raiseOutOfRange ctrl value).trace = s.trace ++ [.log logCcRangeErrCode (ctrlValue ctrl value)] := rfl
@[simp] theorem State.raiseOutOfRange_inputs (s : State) (ctrl value : Byte) : (s.raiseOutOfRange ctrl value).inputs = s.inputs := rfl
@[simp] theorem State.raiseOutOfRange_signal (s : State) (ctrl value : Byte) : (s.raiseOutOfRange ctrl value).signal = s.signal := rfl
@[simp] theorem State.raiseOutOfRange_bench (s : State) (ctrl value : Byte) : (s.raiseOutOfRange ctrl value).bench = s.bench := rfl
@[simp] theorem State.raiseOutOfRange_probe (s : State) (ctrl value : Byte) : (s.raiseOutOfRange ctrl value).probe = s.probe := rfl

@[simp] theorem State.setEnabled_enabled (s : State) (v : Bool) : (s.setEnabled v).enabled = v := rfl
@[simp] theorem State.setEnabled_trace (s : State) (v : Bool) : (s.setEnabled v).trace = s.trace := rfl
@[simp] theorem State.setEnabled_inputs (s : State) (v : Bool) : (s.setEnabled v).inputs = s.inputs := rfl
@[simp] theorem State.setEnabled_signal (s : State) (v : Bool) : (s.setEnabled v).signal = s.signal := rfl
@[simp] theorem State.setEnabled_bench (s : State) (v : Bool) : (s.setEnabled v).bench = s.bench := rfl
@[simp] theorem State.setEnabled_probe (s : State) (v : Bool) : (s.setEnabled v).probe = s.probe := rfl

@[simp] theorem State.drive_enabled (s : State) (r : SubResult) : (s.drive r).enabled = s.enabled := rfl
@[simp] theorem State.drive_trace (s : State) (r : SubResult) : (s.drive r).trace = s.trace := rfl
@[simp] theorem State.drive_inputs (s : State) (r : SubResult) : (s.drive r).inputs = s.inputs := rfl
@[simp] theorem State.drive_signal (s : State) (r : SubResult) : (s.drive r).signal = s.signal := rfl
@[simp] theorem State.drive_bench (s : State) (r : SubResult) : (s.drive r).bench = s.bench := rfl
@[simp] theorem State.drive_probe (s : State) (r : SubResult) : (s.drive r).probe = some r := rfl

@[simp] theorem State.resetEdge_enabled (s : State) : s.resetEdge.enabled = Params.default.resetEnabled := rfl
@[simp] theorem State.resetEdge_trace (s : State) : s.resetEdge.trace = [] := rfl
@[simp] theorem State.resetEdge_inputs (s : State) : s.resetEdge.inputs = s.inputs := rfl
@[simp] theorem State.resetEdge_signal (s : State) : s.resetEdge.signal = { flight := none, waiting := none, settled := true, tick := s.signal.tick } := rfl
@[simp] theorem State.resetEdge_bench (s : State) : s.resetEdge.bench = none := rfl
@[simp] theorem State.resetEdge_probe (s : State) : s.resetEdge.probe = none := rfl

@[simp] theorem State.powerUp_enabled (s : State) : s.powerUp.enabled = s.enabled := rfl
@[simp] theorem State.powerUp_trace (s : State) : s.powerUp.trace = [] := rfl
@[simp] theorem State.powerUp_inputs (s : State) : s.powerUp.inputs = s.inputs := rfl
@[simp] theorem State.powerUp_signal (s : State) : s.powerUp.signal = { s.signal with waiting := none, settled := false } := rfl
@[simp] theorem State.powerUp_bench (s : State) : s.powerUp.bench = s.bench := rfl
@[simp] theorem State.powerUp_probe (s : State) : s.powerUp.probe = s.probe := rfl

@[simp] theorem State.signalNext_enabled (s : State) (flight : Option Flight) (waiting : Option Word) : (s.signalNext flight waiting).enabled = s.enabled := rfl
@[simp] theorem State.signalNext_trace (s : State) (flight : Option Flight) (waiting : Option Word) : (s.signalNext flight waiting).trace = s.trace := rfl
@[simp] theorem State.signalNext_inputs (s : State) (flight : Option Flight) (waiting : Option Word) : (s.signalNext flight waiting).inputs = s.inputs := rfl
@[simp] theorem State.signalNext_signal (s : State) (flight : Option Flight) (waiting : Option Word) : (s.signalNext flight waiting).signal = { flight := flight, waiting := waiting, settled := s.signal.settled, tick := s.signal.tick + 1 } := rfl
@[simp] theorem State.signalNext_bench (s : State) (flight : Option Flight) (waiting : Option Word) : (s.signalNext flight waiting).bench = s.bench := rfl
@[simp] theorem State.signalNext_probe (s : State) (flight : Option Flight) (waiting : Option Word) : (s.signalNext flight waiting).probe = s.probe := rfl

/-- `complete` with no command in flight changes nothing. -/
theorem State.complete_none (s : State) (h : s.signal.flight = none) : s.complete = s := by
  simp [State.complete, h]

/-- `complete` with a command in flight presents its remaining events and leaves the block idle. -/
theorem State.complete_some (s : State) (f : Flight) (h : s.signal.flight = some f) :
    s.complete = { s with trace := s.trace ++ f.events, signal := { s.signal with flight := none } } := by
  simp [State.complete, h, State.emit]

@[simp] theorem State.complete_settled (s : State) : s.complete.signal.settled = s.signal.settled := by
  unfold State.complete; split <;> rfl

@[simp] theorem State.complete_enabled (s : State) : s.complete.enabled = s.enabled := by
  unfold State.complete; split <;> rfl

@[simp] theorem State.complete_inputs (s : State) : s.complete.inputs = s.inputs := by
  unfold State.complete; split <;> rfl

@[simp] theorem State.complete_bench (s : State) : s.complete.bench = s.bench := by
  unfold State.complete; split <;> rfl

@[simp] theorem State.complete_probe (s : State) : s.complete.probe = s.probe := by
  unfold State.complete; split <;> rfl

end Sys2Proof.Machine
end

