-- ==== Sys2Proof/Laws/Ops.lean ====
section
/-! SUPPORT. What each shared operation can do, said once. -/

namespace Sys2Proof.Machine

/-- Emitting nothing changes nothing. -/
@[simp] theorem State.emit_nil (s : State) : s.emit [] = s := by simp [State.emit]

/-- Two emissions are one of the joined events. -/
@[simp] theorem State.emit_emit (s : State) (a b : List Event) : (s.emit a).emit b = s.emit (a ++ b) := by
  simp [State.emit]

/-- `MidiSend` is the emission of one message. -/
theorem State.midiSend_eq_emit (s : State) (bytes : List Byte) : s.midiSend bytes = s.emit [.midi bytes] := rfl

/-- `LogEmit` is the emission of one record. -/
theorem State.logEmit_eq_emit (s : State) (code : Nibble) (payload : BitVec 28) :
    s.logEmit code payload = s.emit [.log code payload] := rfl

/-- The exception is the emission of its one record. -/
theorem State.raiseOutOfRange_eq_emit (s : State) (ctrl value : Byte) :
    s.raiseOutOfRange ctrl value = s.emit [.log logCcRangeErrCode (ctrlValue ctrl value)] := rfl

/-- The validator on a value it passes. -/
theorem valid7_of_le (value : Byte) (h : value.toNat ≤ 127) : valid7 value = true := by simp [valid7, h]

/-- The validator on a value it refuses. -/
theorem valid7_of_lt (value : Byte) (h : 127 < value.toNat) : valid7 value = false := by
  simp [valid7]; omega

/-- A nibble as a value byte is at most 15 and so passes the validator (R65). -/
theorem valid7_nibbleByte (n : Nibble) : valid7 (nibbleByte n) = true := by
  revert n; decide

/-- VCC either sends and records, or takes the exception. -/
theorem vccOp_cases (cfg : Config) (ctrl value : Byte) (s : State) :
    (valid7 value = true ∧
      vccOp cfg ctrl value s =
        s.emit [.midi (ccMessage cfg ctrl value), .log logCcSentCode (ctrlValue ctrl value)])
    ∨ (valid7 value = false ∧ vccOp cfg ctrl value s = s.raiseOutOfRange ctrl value) := by
  cases h : valid7 value <;> simp [vccOp, h, State.midiSend, State.logEmit]

/-- VCC on a nibble sends and records. -/
theorem vccOp_nibble (cfg : Config) (ctrl : Byte) (n : Nibble) (s : State) :
    vccOp cfg ctrl (nibbleByte n) s =
      s.emit [.midi (ccMessage cfg ctrl (nibbleByte n)), .log logCcSentCode (ctrlValue ctrl (nibbleByte n))] := by
  simp [vccOp, valid7_nibbleByte, State.midiSend, State.logEmit]

/-- The two events of a color message. -/
def nibbleEvents (cfg : Config) (pair : Byte × Nibble) : List Event :=
  [.midi (ccMessage cfg pair.1 (nibbleByte pair.2)), .log logCcSentCode (ctrlValue pair.1 (nibbleByte pair.2))]

/-- The loop of CCCOL emits each pair's two events in list order. -/
theorem vccLoop_eq_emit (cfg : Config) (pairs : List (Byte × Nibble)) (s : State) :
    vccLoop cfg pairs s = s.emit (pairs.flatMap (nibbleEvents cfg)) := by
  induction pairs generalizing s with
  | nil => simp [vccLoop]
  | cons p rest ih => simp [vccLoop, ih, vccOp_nibble, nibbleEvents]

/-- A sub-block run by itself leaves everything but its ports. -/
theorem State.drive_eq (s : State) (r : SubResult) : s.drive r = { s with probe := some r } := rfl

/-- What a fetch gives, with the case it comes from. -/
theorem fetch_cases (s : State) :
    (∃ f, s.signal.flight = some f ∧ fetch s = .done s.complete)
    ∨ (s.signal.flight = none ∧ ∃ u i, s.bench = some u ∧ decode (.sub u) = .ok i ∧
        fetch s = .run i { s with bench := none })
    ∨ (s.signal.flight = none ∧ ∃ u e, s.bench = some u ∧ decode (.sub u) = .error e ∧
        fetch s = .refuse (.notARow u))
    ∨ (s.signal.flight = none ∧ s.bench = none ∧ s.inputs = [] ∧ fetch s = .done s)
    ∨ (s.signal.flight = none ∧ s.bench = none ∧ ∃ rest, s.inputs = .reset :: rest ∧
        fetch s = .done { s with inputs := rest }.resetEdge)
    ∨ (s.signal.flight = none ∧ s.bench = none ∧ ∃ w rest i, s.inputs = .command w :: rest ∧
        decode (.command w) = .ok i ∧ fetch s = .run i { s with inputs := rest })
    ∨ (s.signal.flight = none ∧ s.bench = none ∧ ∃ w rest e, s.inputs = .command w :: rest ∧
        decode (.command w) = .error e ∧ fetch s = .refuse (.reservedOpcode (topField w))) := by
  cases hf : s.signal.flight with
  | some f => exact .inl ⟨f, rfl, by simp [fetch, hf]⟩
  | none =>
    right
    cases hb : s.bench with
    | some u =>
      cases hd : decode (.sub u) with
      | ok i => exact .inl ⟨rfl, u, i, rfl, hd, by simp [fetch, hf, hb, hd]⟩
      | error e => exact .inr (.inl ⟨rfl, u, e, rfl, hd, by simp [fetch, hf, hb, hd]⟩)
    | none =>
      right; right
      cases hi : s.inputs with
      | nil => exact .inl ⟨rfl, rfl, rfl, by simp [fetch, hf, hb, hi]⟩
      | cons x rest =>
        cases x with
        | reset => exact .inr (.inl ⟨rfl, rfl, rest, rfl, by simp [fetch, hf, hb, hi]⟩)
        | command w =>
          cases hd : decode (.command w) with
          | ok i => exact .inr (.inr (.inl ⟨rfl, rfl, w, rest, i, rfl, hd, by simp [fetch, hf, hb, hi, hd]⟩))
          | error e => exact .inr (.inr (.inr ⟨rfl, rfl, w, rest, e, rfl, hd, by simp [fetch, hf, hb, hi, hd]⟩))

/-- As the block comes up no command waits, so that none is withdrawn. -/
@[simp] theorem withdrawn_powerUp (s : State) (i : PortsIn) : withdrawn s.powerUp i = false := rfl

/-- What a host has presented and the block has not accepted waits. -/
@[simp] theorem waitingAfter_false (i : PortsIn) : waitingAfter i false = if i.cmdValid then some i.cmd else none := by
  simp [waitingAfter]

/-- A cycle that gives a result is a reset cycle, a cycle before the first reset edge, a cycle of presenting or an idle cycle,
and in each the host has kept a waiting command. -/
theorem cycle_cases (i : PortsIn) (p : Pace) (s : State) (r : State × PortsOut) (h : cycle i p s = .next r) :
    withdrawn s i = false ∧
    ((i.rst = true ∧ (s.signal.settled = true → s.signal.flight = none) ∧ r = resetCycle i s)
    ∨ (i.rst = false ∧ s.signal.settled = false ∧ r = unresetCycle i s)
    ∨ (i.rst = false ∧ ∃ f, InFlight s f ∧ r = busyCycle i p f s)
    ∨ (i.rst = false ∧ Ready s ∧ idleCycle i p s = .next r)) := by
  unfold cycle at h
  cases hw : withdrawn s i with
  | true => simp [hw] at h
  | false =>
    refine ⟨rfl, ?_⟩
    cases hr : i.rst <;> cases hs : s.signal.settled <;> cases hf : s.signal.flight <;>
      simp [hw, hr, hs, hf] at h <;> simp [InFlight, Ready, hs, hf, h]

end Sys2Proof.Machine
end

