-- ==== Sys2Proof/Laws/Words.lean ====
section
/-! SUPPORT. The bits of the words that are built by concatenation. -/

namespace Sys2Proof

/-- The bits of a command word or log record. -/
theorem joinWord_getLsbD (top : Nibble) (low : BitVec 28) (k : Nat) :
    (joinWord top low).getLsbD k = if k < 28 then low.getLsbD k else top.getLsbD (k - 28) := by
  unfold joinWord
  exact BitVec.getLsbD_append

/-- The bits of the operand of a CC message. -/
theorem ctrlValue_getLsbD (ctrl value : Byte) (k : Nat) :
    (ctrlValue ctrl value).getLsbD k = if k < 8 then value.getLsbD k else ctrl.getLsbD (k - 8) := by
  unfold ctrlValue
  have h : ∀ a : BitVec 20, (a ++ value).getLsbD k = if k < 8 then value.getLsbD k else a.getLsbD (k - 8) :=
    fun a => BitVec.getLsbD_append
  refine (h _).trans ?_
  split
  · rfl
  · refine (BitVec.getLsbD_append (x := 0#12) (y := ctrl)).trans ?_
    split
    · rfl
    · rw [BitVec.getLsbD_of_ge ctrl _ (by omega), BitVec.getLsbD_zero]

/-- The bits of a CC message read as a number. -/
theorem ccWordOf_getLsbD (ctrl value : Byte) (k : Nat) :
    (ccWordOf ctrl value).getLsbD k =
      if k < 8 then value.getLsbD k else if k < 16 then ctrl.getLsbD (k - 8) else (0xB0#8).getLsbD (k - 16) := by
  unfold ccWordOf
  have h : ∀ a : BitVec 16, (a ++ value).getLsbD k = if k < 8 then value.getLsbD k else a.getLsbD (k - 8) :=
    fun a => BitVec.getLsbD_append
  refine (h _).trans ?_
  split
  · rfl
  · refine (BitVec.getLsbD_append (x := 0xB0#8) (y := ctrl)).trans ?_
    by_cases h16 : k < 16
    · rw [if_pos (by omega), if_pos h16]
    · rw [if_neg (by omega), if_neg h16, show k - 8 - 8 = k - 16 by omega]

/-- The bits of a nibble as a byte. -/
theorem nibbleByte_getLsbD (n : Nibble) (k : Nat) : (nibbleByte n).getLsbD k = n.getLsbD k := by
  unfold nibbleByte
  rw [BitVec.getLsbD_setWidth]
  by_cases h : k < 8
  · simp [h]
  · rw [BitVec.getLsbD_of_ge n k (by omega)]; simp

/-- The bits of a group as a byte. -/
theorem groupByte_getLsbD (d : Septet) (k : Nat) : (groupByte d).getLsbD k = d.getLsbD k := by
  unfold groupByte
  rw [BitVec.getLsbD_setWidth]
  by_cases h : k < 8
  · simp [h]
  · rw [BitVec.getLsbD_of_ge d k (by omega)]; simp

/-- The bits of a SysEx frame read as a number. -/
theorem sxWordOf_getLsbD (d0 d1 d2 d3 : Septet) (k : Nat) :
    (sxWordOf d0 d1 d2 d3).getLsbD k =
      if k < 8 then (0xF7#8).getLsbD k
      else if k < 16 then d3.getLsbD (k - 8)
      else if k < 24 then d2.getLsbD (k - 16)
      else if k < 32 then d1.getLsbD (k - 24)
      else if k < 40 then d0.getLsbD (k - 32)
      else (0xF06401#24).getLsbD (k - 40) := by
  have low : ∀ (w : Nat) (a : BitVec w) (b : Byte) (j : Nat),
      (a ++ b).getLsbD j = if j < 8 then b.getLsbD j else a.getLsbD (j - 8) :=
    fun w a b j => BitVec.getLsbD_append
  unfold sxWordOf
  refine (low 56 _ _ k).trans (ite_congr rfl (fun _ => rfl) fun h8 => ?_)
  refine (low 48 _ _ (k - 8)).trans ?_
  rw [low 40 _ _ (k - 8 - 8), low 32 _ _ (k - 8 - 8 - 8), low 24 _ _ (k - 8 - 8 - 8 - 8)]
  simp only [groupByte_getLsbD, Nat.sub_sub]
  split_ifs <;> first | rfl | omega

end Sys2Proof
end

