-- ==== Sys2Proof/Laws/PerInstr.lean ====
section
/-! SUPPORT. What is said of every instruction as syntax: the word an instruction is written as has its row's pattern. -/

namespace Sys2Proof.Laws

/-- The row's width is the word's, and the word under the row's mask is the row's pattern. -/
def matchesRow (row : Option TableRow) (bits : Option (Nat × Nat)) : Prop :=
  match row, bits with
  | some r, some (n, w) => n = r.bits ∧ w &&& r.mask = r.pattern
  | none, none => True
  | _, _ => False

/-- The word of an instruction has the `match` and `mask` of its row in the opcode table; a row without a bit pattern is
written without bits. -/
def EncodedWordMatchesRow.Statement (i : Instr) : Prop := matchesRow (tableRow i) (encodedBits (encode i))

/-- A mask on a word, as a mask on its bits. -/
theorem mask_word (n : Nat) (w m p : BitVec n) (h : w &&& m = p) : w.toNat &&& m.toNat = p.toNat := by
  rw [← h, BitVec.toNat_and]

namespace EncodedWordMatchesRow

theorem selnone : Statement .selnone := ⟨rfl, rfl⟩

theorem join_top (top : Nibble) (low : BitVec 28) :
    (joinWord top low).toNat &&& 0xF0000000 = (joinWord top 0#28).toNat := by
  refine mask_word 32 (joinWord top low) 0xF0000000#32 (joinWord top 0#28) ?_
  apply BitVec.eq_of_getLsbD_eq
  intro k hk
  rw [BitVec.getLsbD_and, joinWord_getLsbD, joinWord_getLsbD]
  interval_cases k <;> simp

theorem sel (color : Color) : Statement (.sel color) := ⟨rfl, join_top 0x1#4 color⟩
theorem seten (en : Bool) : Statement (.seten en) := ⟨rfl, join_top 0x2#4 _⟩
theorem cccol (color : Color) : Statement (.cccol color) := ⟨rfl, join_top 0x3#4 color⟩
theorem sxcol (color : Color) : Statement (.sxcol color) := ⟨rfl, join_top 0x4#4 color⟩
theorem vcc (ctrl value : Byte) : Statement (.vcc ctrl value) := ⟨rfl, join_top 0x5#4 _⟩
theorem logSxSent (color : Color) : Statement (.logSxSent color) := ⟨rfl, join_top 0x4#4 color⟩

theorem nibble_word (ctrl : Byte) (n : Nibble) :
    (ccWordOf ctrl (nibbleByte n)).toNat &&& 0xFFFFF0 = (ccWordOf ctrl 0#8).toNat := by
  refine mask_word 24 (ccWordOf ctrl (nibbleByte n)) 0xFFFFF0#24 (ccWordOf ctrl 0#8) ?_
  apply BitVec.eq_of_getLsbD_eq
  intro k hk
  rw [BitVec.getLsbD_and, ccWordOf_getLsbD, ccWordOf_getLsbD, nibbleByte_getLsbD]
  interval_cases k <;> simp

theorem ccRLo (n : Nibble) : Statement (.ccRLo n) := ⟨rfl, nibble_word 0x65#8 n⟩
theorem ccRHi (n : Nibble) : Statement (.ccRHi n) := ⟨rfl, nibble_word 0x64#8 n⟩
theorem ccGLo (n : Nibble) : Statement (.ccGLo n) := ⟨rfl, nibble_word 0x67#8 n⟩
theorem ccGHi (n : Nibble) : Statement (.ccGHi n) := ⟨rfl, nibble_word 0x66#8 n⟩
theorem ccBLo (n : Nibble) : Statement (.ccBLo n) := ⟨rfl, nibble_word 0x69#8 n⟩
theorem ccBHi (n : Nibble) : Statement (.ccBHi n) := ⟨rfl, nibble_word 0x68#8 n⟩

theorem ccGeneric (ctrl : Byte) (value : Septet) : Statement (.ccGeneric ctrl value) := by
  refine ⟨rfl, mask_word 24 (ccWordOf ctrl (groupByte value)) 0xFF0080#24 0xB00000#24 ?_⟩
  apply BitVec.eq_of_getLsbD_eq
  intro k hk
  rw [BitVec.getLsbD_and, ccWordOf_getLsbD, groupByte_getLsbD]
  interval_cases k <;> simp

theorem sysexColor (d0 d1 d2 d3 : Septet) : Statement (.sysexColor d0 d1 d2 d3) := by
  refine ⟨rfl, mask_word 64
    (sxWordOf d0 d1 d2 d3) 0xFFFFFF80808080FF#64 0xF0640100000000F7#64 ?_⟩
  apply BitVec.eq_of_getLsbD_eq
  intro k hk
  rw [BitVec.getLsbD_and, sxWordOf_getLsbD]
  interval_cases k <;> simp

theorem logSelChanged : Statement .logSelChanged := ⟨rfl, rfl⟩

theorem cc_record (top : Nibble) (ctrl value : Byte) :
    (joinWord top (ctrlValue ctrl value)).toNat &&& 0xFFFF0000 = (joinWord top 0#28).toNat := by
  refine mask_word 32 (joinWord top (ctrlValue ctrl value)) 0xFFFF0000#32 (joinWord top 0#28) ?_
  apply BitVec.eq_of_getLsbD_eq
  intro k hk
  rw [BitVec.getLsbD_and, joinWord_getLsbD, joinWord_getLsbD, ctrlValue_getLsbD]
  interval_cases k <;> simp

theorem logCcSent (ctrl value : Byte) : Statement (.logCcSent ctrl value) := ⟨rfl, cc_record 0x2#4 ctrl value⟩
theorem logCcRangeErr (ctrl value : Byte) : Statement (.logCcRangeErr ctrl value) := ⟨rfl, cc_record 0x3#4 ctrl value⟩
theorem chan (color : Color) : Statement (.chan color) := trivial
theorem nib (ch : Byte) : Statement (.nib ch) := trivial
theorem enccc (color : Color) : Statement (.enccc color) := trivial
theorem encsx (color : Color) : Statement (.encsx color) := trivial
theorem valid7 (value : Byte) : Statement (.valid7 value) := trivial

end EncodedWordMatchesRow

end Sys2Proof.Laws
end

