-- ==== Sys2Proof/Tests/Slice0.lean ====
section
/-! SUPPORT. Tests on fixed values, the expected results taken from 95_test_vectors.md and the encodings of 30_encoding.md,
and for every statement with hypotheses a witness that meets them. -/

namespace Sys2Proof.Tests

open Sys2Proof Sys2Proof.Machine

/-- A machine with a given flag that has one command word at the command port. -/
def portState (enabled : Bool) (w : Word) : State := { blank enabled with inputs := [.command w] }

/-- A machine with one row on the bench. -/
def benchState (u : SubWord) : State := { State.reset with bench := some u }

/-- The flag and the trace after one step. -/
def outcome (s : State) : Option (Bool × List Event) :=
  match step s with
  | .next t => some (t.enabled, t.trace)
  | .fault _ => none
  | .refused _ => none

/-- The ports of a sub-block after one step. -/
def probeAfter (s : State) : Option SubResult :=
  match step s with
  | .next t => t.probe
  | .fault _ => none
  | .refused _ => none

/-- What one step on a command word gives. -/
def ran (enabled : Bool) (w : Word) : Option (Bool × List Event) := outcome (portState enabled w)

/-- The event of a 32-bit record. -/
def record (w : Word) : Event := .log (topField w) (colorField w)

/-- The instruction read from a command word. -/
def readCommand (w : Word) : Option Instr := (decode (.command w)).toOption

/-- The instruction read from a sub-word. -/
def readSub (u : SubWord) : Option Instr := (decode (.sub u)).toOption

-- Well-formedness: a message of a color row is not a message of the generic row (R43).

theorem test_ill_formed_generic_refused : WellFormed (.ccGeneric 101#8 5#7) = false := by decide
theorem test_ill_formed_generic_boundary :
    WellFormed (.ccGeneric 104#8 15#7) = false ∧ WellFormed (.ccGeneric 104#8 16#7) = true
    ∧ WellFormed (.ccGeneric 106#8 15#7) = true := by decide

-- Decoding, one word for every row, written out from the encodings of the opcode table.

theorem test_decode_selnone : readCommand 0b00001111111111111111111111111111#32 = some .selnone := by decide
theorem test_decode_sel : readCommand 0b00010000000100100011010001010110#32 = some (.sel 0x0123456#28) := by decide
theorem test_decode_seten : readCommand 0b00101111111111111111111111111110#32 = some (.seten false)
    ∧ readCommand 0b00100000000000000000000000000001#32 = some (.seten true) := by decide
theorem test_decode_cccol : readCommand 0b00111111100000000100000000100000#32 = some (.cccol 0xF804020#28) := by decide
theorem test_decode_sxcol : readCommand 0b01001000000000000000000000000001#32 = some (.sxcol 0x8000001#28) := by decide
theorem test_decode_vcc : readCommand 0b01011111111111111000000000000001#32 = some (.vcc 0x80#8 0x01#8) := by decide
theorem test_decode_ccRLo : readSub (.ccMessage 0b101100000110010100000010#24) = some (.ccRLo 2#4) := by decide
theorem test_decode_ccRHi : readSub (.ccMessage 0b101100000110010000001111#24) = some (.ccRHi 15#4) := by decide
theorem test_decode_ccGLo : readSub (.ccMessage 0b101100000110011100000100#24) = some (.ccGLo 4#4) := by decide
theorem test_decode_ccGHi : readSub (.ccMessage 0b101100000110011000000011#24) = some (.ccGHi 3#4) := by decide
theorem test_decode_ccBLo : readSub (.ccMessage 0b101100000110100100000110#24) = some (.ccBLo 6#4) := by decide
theorem test_decode_ccBHi : readSub (.ccMessage 0b101100000110100000000101#24) = some (.ccBHi 5#4) := by decide
theorem test_decode_ccGeneric : readSub (.ccMessage 0b101100000110010101111111#24) = some (.ccGeneric 101#8 127#7)
    ∧ readSub (.ccMessage 0b101100001000000000000001#24) = some (.ccGeneric 128#8 1#7) := by decide
theorem test_decode_sysexColor :
    readSub (.sysexFrame 0xF0640156684800F7#64) = some (.sysexColor 0x56#7 0x68#7 0x48#7 0x00#7) := by decide
theorem test_decode_logSelChanged : readSub (.logRecord 0x10000000#32) = some .logSelChanged := by decide
theorem test_decode_logCcSent : readSub (.logRecord 0x2000657F#32) = some (.logCcSent 101#8 127#8) := by decide
theorem test_decode_logCcRangeErr : readSub (.logRecord 0x30006580#32) = some (.logCcRangeErr 101#8 128#8) := by decide
theorem test_decode_logSxSent : readSub (.logRecord 0x4FFFFFFF#32) = some (.logSxSent 0xFFFFFFF#28) := by decide
theorem test_decode_functions :
    readSub (.chanIn 0x0123456#28) = some (.chan 0x0123456#28) ∧ readSub (.nibIn 0xA5#8) = some (.nib 0xA5#8)
    ∧ readSub (.ccPackIn 1#28) = some (.enccc 1#28) ∧ readSub (.sxPackIn 2#28) = some (.encsx 2#28)
    ∧ readSub (.validIn 128#8) = some (.valid7 128#8) := by decide

/-- Reserved opcodes, a value byte with bit 7 set, another status byte, a wrong end marker, reserved log codes, and payload bits
that are always zero (R42, R44, R51, R53). -/
theorem test_decode_refuses_by_name :
    decode (.command 0x60000000#32) = .error (.reservedOpcode 6#4)
    ∧ decode (.command 0xFFFFFFFF#32) = .error (.reservedOpcode 15#4)
    ∧ decode (.sub (.ccMessage 0xB06580#24)) = .error (.notCcMessage 0xB06580#24)
    ∧ decode (.sub (.ccMessage 0x906505#24)) = .error (.notCcMessage 0x906505#24)
    ∧ decode (.sub (.sysexFrame 0xF0640156684800F0#64)) = .error (.notSysexFrame 0xF0640156684800F0#64)
    ∧ decode (.sub (.logRecord 0x00000000#32)) = .error (.notLogRecord 0x00000000#32)
    ∧ decode (.sub (.logRecord 0x50000000#32)) = .error (.notLogRecord 0x50000000#32)
    ∧ decode (.sub (.logRecord 0x10000001#32)) = .error (.notLogRecord 0x10000001#32)
    ∧ decode (.sub (.logRecord 0x20010000#32)) = .error (.notLogRecord 0x20010000#32) := by decide

theorem test_table_words :
    decodeTableWord 32 0x10123456 = some (.sel 0x123456#28) ∧ decodeTableWord 24 0xB06502 = some (.ccRLo 2#4)
    ∧ decodeTableWord 64 0xF0640156684800F7 = some (.sysexColor 0x56#7 0x68#7 0x48#7 0x00#7)
    ∧ decodeTableWord 32 0x60000000 = none ∧ decodeTableWord 16 0 = none := by decide

-- One step of every row.

theorem test_selnone : ran true 0x0FFFFFFF#32 = some (true, []) ∧ ran false 0x00000000#32 = some (false, []) := by decide

/-- V61. -/
theorem test_sel_disabled : ran false 0x10ABCDEF#32 = some (false, [record 0x10000000#32]) := by decide

/-- P5. -/
theorem test_sel_enabled : ran true 0x10ABCDEF#32 = some (true,
    [.midi [0xB0#8, 0x65#8, 0x0B#8], record 0x2000650B#32, .midi [0xB0#8, 0x64#8, 0x0A#8], record 0x2000640A#32,
     .midi [0xB0#8, 0x67#8, 0x0D#8], record 0x2000670D#32, .midi [0xB0#8, 0x66#8, 0x0C#8], record 0x2000660C#32,
     .midi [0xB0#8, 0x69#8, 0x0F#8], record 0x2000690F#32, .midi [0xB0#8, 0x68#8, 0x0E#8], record 0x2000680E#32,
     .midi [0xF0#8, 0x64#8, 0x01#8, 0x6F#8, 0x1B#8, 0x2F#8, 0x05#8, 0xF7#8], record 0x40ABCDEF#32,
     record 0x10000000#32]) := by decide

/-- V57, V60. -/
theorem test_seten_clears : ran true 0x20000000#32 = some (false, []) ∧ ran true 0x2FFFFFFE#32 = some (false, []) := by
  decide

/-- V58, V59. -/
theorem test_seten_sets : ran false 0x20000001#32 = some (true, []) ∧ ran true 0x20000001#32 = some (true, []) := by decide

/-- V69: bits 27:24 do not reach the CC path. -/
theorem test_cccol : ran true 0x3F804020#32 = some (true,
    [.midi [0xB0#8, 0x65#8, 0x00#8], record 0x20006500#32, .midi [0xB0#8, 0x64#8, 0x08#8], record 0x20006408#32,
     .midi [0xB0#8, 0x67#8, 0x00#8], record 0x20006700#32, .midi [0xB0#8, 0x66#8, 0x04#8], record 0x20006604#32,
     .midi [0xB0#8, 0x69#8, 0x00#8], record 0x20006900#32, .midi [0xB0#8, 0x68#8, 0x02#8], record 0x20006802#32]) := by
  decide

/-- V79: another `Config`. -/
theorem test_cccol_other_config :
    eventsOf { Config.default with ccRLo := 21#8, ccRHi := 20#8, ccGLo := 23#8, ccGHi := 22#8, ccBLo := 25#8, ccBHi := 24#8 }
      true (.cccol 0x123456#28) =
    [.midi [0xB0#8, 0x15#8, 0x02#8], record 0x20001502#32, .midi [0xB0#8, 0x14#8, 0x01#8], record 0x20001401#32,
     .midi [0xB0#8, 0x17#8, 0x04#8], record 0x20001704#32, .midi [0xB0#8, 0x16#8, 0x03#8], record 0x20001603#32,
     .midi [0xB0#8, 0x19#8, 0x06#8], record 0x20001906#32, .midi [0xB0#8, 0x18#8, 0x05#8], record 0x20001805#32] := by
  decide

/-- V70, V71. -/
theorem test_sxcol_gate : ran true 0x40FFFFFF#32 = some (true,
      [.midi [0xF0#8, 0x64#8, 0x01#8, 0x7F#8, 0x7F#8, 0x7F#8, 0x07#8, 0xF7#8], record 0x40FFFFFF#32])
    ∧ ran false 0x40FFFFFF#32 = some (false, []) := by decide

/-- V73. -/
theorem test_sxcol_all_bits : ran true 0x4FFFFFFF#32 = some (true,
    [.midi [0xF0#8, 0x64#8, 0x01#8, 0x7F#8, 0x7F#8, 0x7F#8, 0x7F#8, 0xF7#8], record 0x4FFFFFFF#32]) := by decide

/-- V31, V32, V34. -/
theorem test_vcc_boundary :
    ran true 0x5000657F#32 = some (true, [.midi [0xB0#8, 0x65#8, 0x7F#8], record 0x2000657F#32])
    ∧ ran true 0x50006580#32 = some (true, [record 0x30006580#32])
    ∧ ran false 0x5000657F#32 = some (false, [.midi [0xB0#8, 0x65#8, 0x7F#8], record 0x2000657F#32]) := by decide

/-- V36: the controller is not validated. -/
theorem test_vcc_any_controller :
    ran true 0x5FFF8001#32 = some (true, [.midi [0xB0#8, 0x80#8, 0x01#8], record 0x20008001#32]) := by decide

/-- The bytes of a message row run by itself. -/
theorem test_messages_of_color_rows :
    outcome (benchState (.ccMessage 0xB06502#24)) = some (true, [.midi [0xB0#8, 0x65#8, 0x02#8]])
    ∧ outcome (benchState (.ccMessage 0xB06401#24)) = some (true, [.midi [0xB0#8, 0x64#8, 0x01#8]])
    ∧ outcome (benchState (.ccMessage 0xB06704#24)) = some (true, [.midi [0xB0#8, 0x67#8, 0x04#8]])
    ∧ outcome (benchState (.ccMessage 0xB06603#24)) = some (true, [.midi [0xB0#8, 0x66#8, 0x03#8]])
    ∧ outcome (benchState (.ccMessage 0xB06906#24)) = some (true, [.midi [0xB0#8, 0x69#8, 0x06#8]])
    ∧ outcome (benchState (.ccMessage 0xB06805#24)) = some (true, [.midi [0xB0#8, 0x68#8, 0x05#8]]) := by decide

theorem test_ccGeneric :
    outcome (benchState (.ccMessage 0xB0657F#24)) = some (true, [.midi [0xB0#8, 0x65#8, 0x7F#8]]) := by decide

theorem test_sysexColor :
    outcome (benchState (.sysexFrame 0xF0640156684800F7#64)) =
      some (true, [.midi [0xF0#8, 0x64#8, 0x01#8, 0x56#8, 0x68#8, 0x48#8, 0x00#8, 0xF7#8]]) := by decide

theorem test_records :
    outcome (benchState (.logRecord 0x10000000#32)) = some (true, [record 0x10000000#32])
    ∧ outcome (benchState (.logRecord 0x2000657F#32)) = some (true, [record 0x2000657F#32])
    ∧ outcome (benchState (.logRecord 0x30006580#32)) = some (true, [record 0x30006580#32])
    ∧ outcome (benchState (.logRecord 0x4FFFFFFF#32)) = some (true, [record 0x4FFFFFFF#32]) := by decide

/-- V9, V13. -/
theorem test_chan : probeAfter (benchState (.chanIn 0xF123456#28)) = some (.channels 0x12#8 0x34#8 0x56#8) := by decide

/-- V7, V6. -/
theorem test_nib : probeAfter (benchState (.nibIn 0xA5#8)) = some (.nibbles 5#4 10#4)
    ∧ probeAfter (benchState (.nibIn 0x80#8)) = some (.nibbles 0#4 8#4) := by decide

/-- V22. -/
theorem test_enccc : probeAfter (benchState (.ccPackIn 0x0123456#28)) =
    some (.ccPairs [(101#8, 2#4), (100#8, 1#4), (103#8, 4#4), (102#8, 3#4), (105#8, 6#4), (104#8, 5#4)]) := by decide

/-- V21. -/
theorem test_encsx_white : probeAfter (benchState (.sxPackIn 0x0FFFFFF#28)) =
    some (.sxBytes [0xF0#8, 0x64#8, 0x01#8, 0x7F#8, 0x7F#8, 0x7F#8, 0x07#8, 0xF7#8]) := by decide

/-- V49. -/
theorem test_encsx_bit_27 : probeAfter (benchState (.sxPackIn 0x8000000#28)) =
    some (.sxBytes [0xF0#8, 0x64#8, 0x01#8, 0x00#8, 0x00#8, 0x00#8, 0x40#8, 0xF7#8]) := by decide

/-- R70. -/
theorem test_valid7 : probeAfter (benchState (.validIn 127#8)) = some (.verdict true)
    ∧ probeAfter (benchState (.validIn 128#8)) = some (.verdict false) := by decide

/-- V75, V76. -/
theorem test_reserved_opcode_refused :
    step (portState true 0x60000000#32) = .refused (.reservedOpcode 6#4)
    ∧ step (portState true 0xFFFFFFFF#32) = .refused (.reservedOpcode 15#4) := ⟨rfl, rfl⟩

/-- V78: after SETEN 0 a reset enables the block again and empties the trace. -/
theorem test_reset :
    outcome { blank false with inputs := [.reset], trace := [record 0x10000000#32] } = some (true, []) := by decide

theorem test_withFetchWord :
    outcome (State.reset.withFetchWord 32 0x50006580) = some (true, [record 0x30006580#32])
    ∧ outcome (State.reset.withFetchWord 24 0xB06502) = some (true, [.midi [0xB0#8, 0x65#8, 0x02#8]]) := by decide

-- Single cycles of W1.

/-- The machine of W1 when SXCOL 0x000001 has been accepted and seven of its bytes are out. -/
def w1State (sent : Nat) : State :=
  { State.reset with
    signal :=
      { flight := some { word := 0x40000001#32, events := eventsOf Config.default true (.sxcol 1#28), sent := sent }
        waiting := some 0x00000000#32
        settled := true
        tick := 3 } }

/-- The host's wires in cycles 3 to 12 of W1. -/
def w1Input : PortsIn := { rst := false, cmdValid := true, cmd := 0x00000000#32 }

/-- W1, cycle 0: the first reset cycle after power-up, from a state with a flight that no one put there. -/
theorem test_w1_power_up : ∃ s o, cycle { quiet with rst := true } fullPace (w1State 3).powerUp = .next (s, o)
      ∧ o.cmdReady = false ∧ s.signal = { State.reset.signal with tick := 4 } ∧ s.enabled = true :=
  ⟨_, _, rfl, rfl, rfl, rfl⟩

/-- R17: in the second cycle of a held reset both valids are 0. -/
theorem test_held_reset : ∃ s o, cycle { quiet with rst := true } fullPace State.reset = .next (s, o)
      ∧ o.cmdReady = false ∧ o.midiValid = false ∧ o.logValid = false := ⟨_, _, rfl, rfl, rfl, rfl⟩

/-- R110: a waiting command withdrawn in a cycle with `rst = 1` is refused. -/
theorem test_withdrawn_in_reset :
    cycle { quiet with rst := true } fullPace { State.reset with signal := { State.reset.signal with waiting := some 0#32 } }
      = .refused (.commandWithdrawn 0#32) := rfl

/-- W1, cycle 2: the command is accepted and its first byte comes later. -/
theorem test_w1_accept : ∃ s o, cycle { rst := false, cmdValid := true, cmd := 0x40000001#32 } fullPace State.reset
      = .next (s, o) ∧ o.cmdReady = true ∧ o.midiValid = false ∧ o.logValid = false
      ∧ s.signal.flight.isSome = true := ⟨_, _, rfl, rfl, rfl, rfl, rfl⟩

/-- W1, cycle 3: the first byte. -/
theorem test_w1_first_byte : ∃ s o, cycle w1Input fullPace (w1State 0) = .next (s, o) ∧ o.cmdReady = false
      ∧ o.midiValid = true ∧ o.midiData = 0xF0#8 ∧ o.midiSop = true ∧ o.midiEop = false ∧ o.logValid = false :=
  ⟨_, _, rfl, rfl, rfl, rfl, rfl, rfl, rfl⟩

/-- W1, cycle 11: the last byte and the record share a cycle, and the block is ready in the next. -/
theorem test_w1_last_byte : ∃ s o, cycle w1Input fullPace (w1State 7) = .next (s, o) ∧ o.cmdReady = false
      ∧ o.midiData = 0xF7#8 ∧ o.midiEop = true ∧ o.logValid = true ∧ o.logRec = 0x40000001#32
      ∧ s.signal.flight = none ∧ s.trace = eventsOf Config.default true (.sxcol 1#28) :=
  ⟨_, _, rfl, rfl, rfl, rfl, rfl, rfl, rfl, rfl⟩

-- The assembler (R55, R56).

theorem test_assemble_script :
    assemble "SEL 0x123456 ; a comment\nVCC 101, 128\n\nDISABLE\nSEL 1, 2, 3".toList
      = some [0x10123456#32, 0x50006580#32, 0x20000000#32, 0x10010203#32] := by decide

theorem test_assemble_errors : assemble "SETEN 2".toList = none ∧ assemble "VCC 256, 0".toList = none
    ∧ assemble "SEL 0x10000000".toList = none ∧ assemble "PLAY 1".toList = none := by decide

-- Witnesses: a concrete state and operands for the hypotheses of each statement.

theorem witness_EncodeThenDecodeGivesTheInstruction :
    WellFormed (.ccGeneric 101#8 16#7) = true ∧ WellFormed (.vcc 255#8 255#8) = true := by decide

theorem witness_DecodedInstructionIsWellFormed :
    decode (.command 0x5FFFFFFF#32) = .ok (.vcc 255#8 255#8)
    ∧ decode (.sub (.ccMessage 0xB0650F#24)) = .ok (.ccRLo 15#4) := by decide

theorem witness_CommandWordsFollowTheOpcodeMap :
    (0x0FFFFFFF#32).extractLsb' 28 4 = 0x0#4 ∧ (0x10000000#32).extractLsb' 28 4 = 0x1#4
    ∧ (0x2FFFFFFF#32).extractLsb' 28 4 = 0x2#4 ∧ (0x30000000#32).extractLsb' 28 4 = 0x3#4
    ∧ (0x4FFFFFFF#32).extractLsb' 28 4 = 0x4#4 ∧ (0x5FFFFFFF#32).extractLsb' 28 4 = 0x5#4
    ∧ 6 ≤ ((0x60000000#32).extractLsb' 28 4).toNat ∧ 6 ≤ ((0xFFFFFFFF#32).extractLsb' 28 4).toNat := by decide

theorem witness_ReservedOpcodeHasNoResult :
    AtPort (portState true 0x60000000#32) 0x60000000#32 [] ∧ 0x60000000 ≤ (0x60000000#32).toNat
    ∧ 0x60000000 ≤ (0xFFFFFFFF#32).toNat := ⟨⟨rfl, rfl, rfl⟩, by decide, by decide⟩

theorem witness_WithoutDirectCommandsOnlyMissionCommandsRun :
    3 ≤ ((0x30000000#32).extractLsb' 28 4).toNat ∧ ((0x2FFFFFFF#32).extractLsb' 28 4).toNat < 3 := by decide

theorem witness_SelnoneDoesNothing : AtPort (portState false 0x0FFFFFFF#32) (0x0#4 ++ 0xFFFFFFF#28) [] :=
  ⟨rfl, rfl, rfl⟩

theorem witness_SetenWritesTheFlagAlone :
    AtPort (portState true 0x2FFFFFFE#32) (0x2#4 ++ 0x7FFFFFF#27 ++ BitVec.ofBool false) [] := ⟨rfl, rfl, rfl⟩

theorem witness_VccSendsOrRecordsTheRefusal : (127#8).toNat ≤ 127 ∧ 128 ≤ (128#8).toNat := by decide

theorem witness_EncccDeterminesTheColor :
    enccc Config.default 0xFABCDEF#28 = enccc Config.default 0x0ABCDEF#28 := by decide

theorem witness_EncsxGivesTheFrame : 0x0FFFFFF#28 = rgb 0x0FFFFFF#28 := by decide

theorem witness_EncsxDeterminesTheColor :
    encsx Config.default 0xFFFFFFF#28 = encsx Config.default 0xFFFFFFF#28 ∧ 0x0FFFFFF#28 = rgb 0x0FFFFFF#28 := by decide

theorem witness_ValidatorTestsBitSeven : (127#8).toNat ≤ 127 ∧ 128 ≤ (128#8).toNat := by decide

theorem witness_OnlySetenChangesTheFlag :
    exec (.seten false) (blank true) = .next (blank false) ∧ (blank false).enabled ≠ (blank true).enabled :=
  ⟨rfl, by decide⟩

theorem witness_EffectDependsOnTheFlagAndTheRowAlone : isPureOperation (.valid7 128#8) = true := by decide

theorem witness_UpperColorBitsReachOnlySysex :
    eventsOf Config.default true (.sxcol 0xF000000#28) = eventsOf Config.default true (.sxcol 0xF000000#28) := rfl

theorem witness_EventCountsOfEveryCommand :
    (127#8).toNat ≤ 127 ∧ 128 ≤ (128#8).toNat ∧ decodeCommand Params.default 0x50006580#32 = .ok (.vcc 101#8 128#8) := by
  decide

theorem witness_RefusedValueDoesNotDisturbARun :
    Params.default.directCommands = true ∧ 128 ≤ (128#8).toNat
    ∧ blockRun Config.default Params.default true [0x20000000#32] = some (false, []) := by decide

theorem witness_SameCommandTwiceEmitsTwice :
    blockStep Config.default Params.default false 0x10000000#32 = some (false, [record 0x10000000#32]) := by decide

theorem witness_StepRunsTheDecodedInstruction_port :
    AtPort (portState true 0x5000657F#32) 0x5000657F#32 []
    ∧ decode (.command 0x5000657F#32) = .ok (.vcc 101#8 127#8) := ⟨⟨rfl, rfl, rfl⟩, by decide⟩

theorem witness_StepRunsTheDecodedInstruction_bench :
    (benchState (.ccMessage 0xB06502#24)).signal.flight = none
    ∧ (benchState (.ccMessage 0xB06502#24)).bench = some (.ccMessage 0xB06502#24)
    ∧ decode (.sub (.ccMessage 0xB06502#24)) = .ok (.ccRLo 2#4) := by decide

theorem witness_StepRunsTheDecodedInstruction_table : decodeTableWord 32 0x20000001 = some (.seten true) := by decide

theorem witness_IdleStepChangesNothing :
    (blank false).signal.flight = none ∧ (blank false).bench = none ∧ (blank false).inputs = [] := by decide

/-- A disabled machine with a reset to come. -/
def resetToCome : State := { blank false with inputs := [.reset, .command 0x40000001#32] }

theorem witness_ResetStepLeavesTheResetState :
    resetToCome.signal.flight = none ∧ resetToCome.bench = none
    ∧ resetToCome.inputs = .reset :: [.command 0x40000001#32] := by decide

theorem witness_StepCompletesTheCommandInFlight :
    (w1State 7).signal.flight =
      some { word := 0x40000001#32, events := eventsOf Config.default true (.sxcol 1#28), sent := 7 } := rfl

/-- A machine with P2's first two commands to come. -/
def twoToCome : State := { State.reset with inputs := [.command 0x20000000#32, .command 0x10ABCDEF#32] }

theorem witness_MachineRunIsTheSpecRun :
    twoToCome.signal.flight = none ∧ twoToCome.bench = none
    ∧ twoToCome.inputs = [0x20000000#32, 0x10ABCDEF#32].map HostInput.command
    ∧ blockRun Config.default Params.default twoToCome.enabled [0x20000000#32, 0x10ABCDEF#32]
        = some (false, [record 0x10000000#32]) := by decide

theorem witness_MachineRunIsTheSpecRun_refused :
    (portState true 0x60000000#32).inputs = [0x60000000#32].map HostInput.command
    ∧ blockRun Config.default Params.default true [0x60000000#32] = none := by decide

theorem witness_OutputsStayWellFormed :
    outputsOk (portState true 0x5000657F#32) = true ∧ ∃ t, step (portState true 0x5000657F#32) = .next t :=
  ⟨by decide, _, rfl⟩

theorem witness_TraceStaysPaired :
    PairedAtRest (portState true 0x5000657F#32) ∧ ∃ t, step (portState true 0x5000657F#32) = .next t :=
  ⟨⟨by decide, by decide⟩, _, rfl⟩

theorem witness_LogTellsEveryMessage :
    blockRun Config.default Params.default true [0x5000657F#32, 0x50006580#32] =
      some (true, [.midi [0xB0#8, 0x65#8, 0x7F#8], record 0x2000657F#32, record 0x30006580#32]) := by decide

theorem witness_ReceiverSplitsTheByteStream :
    ∀ m ∈ messages (eventsOf Config.default true (.sel 0x0123456#28)), streamable m = true := by decide

/-- A host that presents a command. -/
def presents (w : Word) : PortsIn := { rst := false, cmdValid := true, cmd := w }

theorem witness_ReservedOpcodeHasNoResult_cycle :
    (presents 0x60000000#32).rst = false ∧ (presents 0x60000000#32).cmdValid = true
    ∧ withdrawn State.reset (presents 0x60000000#32) = false ∧ Ready State.reset
    ∧ 0x60000000 ≤ (presents 0x60000000#32).cmd.toNat := ⟨rfl, rfl, rfl, ⟨rfl, rfl⟩, by decide⟩

theorem witness_CommandIsAcceptedWhenReady :
    (presents 0x40000001#32).rst = false ∧ (presents 0x40000001#32).cmdValid = true
    ∧ withdrawn State.reset (presents 0x40000001#32) = false
    ∧ State.reset.signal.settled = true ∧ State.reset.signal.flight = none
    ∧ blockStep Config.default Params.default State.reset.enabled (presents 0x40000001#32).cmd =
        some (true, eventsOf Config.default true (.sxcol 1#28)) := by decide

theorem witness_CommandIsAcceptedWhenReady_idle :
    quiet.rst = false ∧ quiet.cmdValid = false ∧ withdrawn State.reset quiet = false ∧ Ready State.reset :=
  ⟨rfl, rfl, rfl, rfl, rfl⟩

theorem witness_BusyCycleOnlyPresents : ∃ f t o,
    InFlight (w1State 7) f ∧ cycle w1Input fullPace (w1State 7) = .next (t, o) := ⟨_, _, _, ⟨rfl, rfl⟩, rfl⟩

theorem witness_SequencerPositionIsKept : (w1State 7).flightOk = true ∧ (w1State 7).signal.settled = true
    ∧ (∃ t o, cycle w1Input fullPace (w1State 7) = .next (t, o)) ∧ ∃ t, step (w1State 7) = .next t :=
  ⟨by decide, rfl, ⟨_, _, rfl⟩, _, rfl⟩

/-- Two cycles of W1. -/
def twoCycles : List (PortsIn × Pace) := [(w1Input, fullPace), (w1Input, fullPace)]

theorem witness_WiresTellTheTrace : (w1State 7).signal.settled = true ∧ (∀ x ∈ twoCycles, x.1.rst = false)
    ∧ ∃ t samples, runCycles twoCycles (w1State 7) = .next (t, samples) := ⟨rfl, by decide, _, _, rfl⟩

theorem witness_WiresTellTheTrace_cycle : ∃ f t o, InFlight (w1State 7) f
    ∧ cycle w1Input fullPace (w1State 7) = .next (t, o) ∧ o.midiValid = true ∧ o.logValid = true :=
  ⟨_, _, _, ⟨rfl, rfl⟩, rfl, rfl, rfl⟩

theorem witness_SignalLevelRefinesTheTransactionLevel : (w1State 7).signal.settled = true ∧ (∀ x ∈ twoCycles, x.1.rst = false)
    ∧ ∃ t samples, runCycles twoCycles (w1State 7) = .next (t, samples) := ⟨rfl, by decide, _, _, rfl⟩

/-- A machine with one byte and one record left, and no host waiting. -/
def nearlyDone : State := { w1State 7 with signal := { (w1State 7).signal with waiting := none } }

theorem witness_CommandInFlightCompletes :
    nearlyDone.signal.settled = true ∧ nearlyDone.flightOk = true ∧ nearlyDone.signal.waiting = none := by decide

theorem witness_BytesLeaveOneACycle : (∃ f, InFlight (w1State 7) f ∧ f.ok = true)
    ∧ (∃ t o, cycle w1Input fullPace (w1State 7) = .next (t, o)) ∧ (127#8).toNat ≤ 127 :=
  ⟨⟨_, ⟨rfl, rfl⟩, by decide⟩, ⟨_, _, rfl⟩, by decide⟩

/-- A host that drives reset and a command at once. -/
def resetAndPresents : PortsIn := { rst := true, cmdValid := true, cmd := 0x40000001#32 }

theorem witness_ResetCycleWins : resetAndPresents.rst = true
    ∧ (withdrawn (blank false) resetAndPresents = false ∧ Ready (blank false))
    ∧ (withdrawn nearlyDone resetAndPresents = false ∧ ∃ f, InFlight nearlyDone f) :=
  ⟨rfl, ⟨rfl, rfl, rfl⟩, rfl, _, rfl, rfl⟩

theorem witness_WithdrawnCommandIsRefused :
    (w1State 7).signal.waiting = some 0x00000000#32
    ∧ quiet.cmdValid = false ∧ resetAndPresents.cmd ≠ 0x00000000#32 := by decide

theorem witness_AssembledLinesAreTheirCommands :
    assembleLine (.sel 0xFFFFFFF) = .command 0x1FFFFFFF#32 ∧ assembleLine (.sel 0x10000000) = .wrong
    ∧ assembleLine (.seten 1) = .command 0x20000001#32 ∧ assembleLine (.seten 2) = .wrong
    ∧ assembleLine (.vcc 255 128) = .command 0x5000FF80#32 ∧ assembleLine (.vcc 256 0) = .wrong
    ∧ assembleLine (.vcc 0 256) = .wrong ∧ assembleLine (.selRgb 255 255 255) = .command 0x10FFFFFF#32
    ∧ assembleLine (.selRgb 0 256 0) = .wrong := by decide

end Sys2Proof.Tests
end

section
/-! PROOFS, 00_scope.md: the layer of facts that the statements of the family rest on. What a row does and what the command
decoder reads are each said once. -/

namespace Sys2Proof.Machine

/-- The meanings that `exec` calls are the rows' effects for the default `Config` (log 1), arm for arm. -/
theorem exec_eq_next_effect (i : Instr) (s : State) : exec i s = .next (effect Config.default i s) := by
  cases i <;> rfl

/-- What CCCOL emits: six color messages if the gate is open, nothing if it is closed (R76, R80). -/
def cccolEvents (cfg : Config) (color : Color) (enabled : Bool) : List Event :=
  if enabled then (enccc cfg color).flatMap (nibbleEvents cfg) else []

/-- What SXCOL emits: the frame and its record if the gate is open, nothing if it is closed (R76, R81). -/
def sxcolEvents (cfg : Config) (color : Color) (enabled : Bool) : List Event :=
  if enabled then [.midi (encsx cfg color), .log logSxSentCode color] else []

/-- What SEL emits: what its two gated halves emit, then its own record, which is not gated (R78). -/
def selEvents (cfg : Config) (color : Color) (enabled : Bool) : List Event :=
  cccolEvents cfg color enabled ++ sxcolEvents cfg color enabled ++ [.log logSelChangedCode 0#28]

theorem cccolOp_eq_emit (cfg : Config) (color : Color) (s : State) :
    cccolOp cfg color s = s.emit (cccolEvents cfg color s.enabled) := by
  cases h : s.enabled <;> simp [cccolOp, cccolEvents, gateOpen, h, vccLoop_eq_emit]

theorem sxcolOp_eq_emit (cfg : Config) (color : Color) (s : State) :
    sxcolOp cfg color s = s.emit (sxcolEvents cfg color s.enabled) := by
  cases h : s.enabled <;> simp [sxcolOp, sxcolEvents, gateOpen, h, State.midiSend_eq_emit, State.logEmit_eq_emit]

theorem selOp_eq_emit (cfg : Config) (color : Color) (s : State) :
    selOp cfg color s = s.emit (selEvents cfg color s.enabled) := by
  simp [selOp, selEvents, cccolOp_eq_emit, sxcolOp_eq_emit, State.logEmit_eq_emit]

/-- VCC emits, from every state, events that its operands fix (R82, R85). -/
theorem vccOp_eq_emit (cfg : Config) (ctrl value : Byte) :
    ∃ es : List Event, ∀ s : State, vccOp cfg ctrl value s = s.emit es := by
  cases h : valid7 value with
  | true =>
    exact ⟨[.midi (ccMessage cfg ctrl value), .log logCcSentCode (ctrlValue ctrl value)], fun s => by
      simp [vccOp, h, State.midiSend_eq_emit, State.logEmit_eq_emit]⟩
  | false =>
    exact ⟨[.log logCcRangeErrCode (ctrlValue ctrl value)], fun s => by
      simp [vccOp, h, State.raiseOutOfRange_eq_emit]⟩

/-- What a row can do: emit events that the flag fixes, write the flag, or, if it is a pure operation, drive the ports of its
sub-block; in each case from every state in the same way. -/
theorem effect_cases (cfg : Config) (i : Instr) :
    (isPureOperation i = false ∧ ∃ es : Bool → List Event, ∀ s, effect cfg i s = s.emit (es s.enabled))
    ∨ (isPureOperation i = false ∧ ∃ en : Bool, ∀ s, effect cfg i s = s.setEnabled en)
    ∨ (isPureOperation i = true ∧ ∃ r : SubResult, ∀ s, effect cfg i s = s.drive r) := by
  cases i with
  | selnone => exact .inl ⟨rfl, fun _ => [], fun s => s.emit_nil.symm⟩
  | sel color => exact .inl ⟨rfl, selEvents cfg color, selOp_eq_emit cfg color⟩
  | seten en => exact .inr (.inl ⟨rfl, en, fun _ => rfl⟩)
  | cccol color => exact .inl ⟨rfl, cccolEvents cfg color, cccolOp_eq_emit cfg color⟩
  | sxcol color => exact .inl ⟨rfl, sxcolEvents cfg color, sxcolOp_eq_emit cfg color⟩
  | vcc ctrl value =>
    obtain ⟨es, hes⟩ := vccOp_eq_emit cfg ctrl value
    exact .inl ⟨rfl, fun _ => es, hes⟩
  | ccRLo n | ccRHi n | ccGLo n | ccGHi n | ccBLo n | ccBHi n | ccGeneric ctrl value | sysexColor d0 d1 d2 d3
  | logSelChanged | logCcSent ctrl value | logCcRangeErr ctrl value | logSxSent color =>
    exact .inl ⟨rfl, fun _ => _, fun _ => rfl⟩
  | chan color | nib ch | enccc color | encsx color | valid7 value =>
    exact .inr (.inr ⟨rfl, _, fun _ => rfl⟩)

/-- The whole state after a row: the flag, the events and the ports are functions of the `Config`, the flag and the row, and
every other field is as it was. -/
theorem effect_eq (cfg : Config) (i : Instr) (s : State) :
    effect cfg i s =
      { s with
        enabled := enabledAfter cfg s.enabled i
        trace := s.trace ++ eventsOf cfg s.enabled i
        probe := if isPureOperation i then drivenBy cfg i else s.probe } := by
  obtain ⟨hp, es, h⟩ | ⟨hp, en, h⟩ | ⟨hp, r, h⟩ := effect_cases cfg i
  · simp [enabledAfter, eventsOf, hp, h, State.emit, blank, State.reset]
  · simp [enabledAfter, eventsOf, hp, h, State.setEnabled, blank, State.reset]
  · simp [enabledAfter, eventsOf, drivenBy, hp, h, State.drive, blank, State.reset]

/-- A pure operation drives something on its ports (R39). -/
theorem drivenBy_isSome (cfg : Config) (i : Instr) (hi : isPureOperation i = true) : (drivenBy cfg i).isSome = true := by
  obtain ⟨hp, _⟩ | ⟨hp, _⟩ | ⟨_, r, h⟩ := effect_cases cfg i
  · simp [hp] at hi
  · simp [hp] at hi
  · simp [drivenBy, h]

/-- The opcode map, by the value of the top four bits (R41, R51, R75). -/
theorem decodeCommand_cases (prm : Params) (w : Word) :
    ((topField w).toNat = 0 ∧ decodeCommand prm w = .ok .selnone)
    ∨ ((topField w).toNat = 1 ∧ decodeCommand prm w = .ok (.sel (colorField w)))
    ∨ ((topField w).toNat = 2 ∧ decodeCommand prm w = .ok (.seten (enField w)))
    ∨ ((topField w).toNat = 3 ∧ decodeCommand prm w = directCommand prm (topField w) (.cccol (colorField w)))
    ∨ ((topField w).toNat = 4 ∧ decodeCommand prm w = directCommand prm (topField w) (.sxcol (colorField w)))
    ∨ ((topField w).toNat = 5 ∧
        decodeCommand prm w = directCommand prm (topField w) (.vcc (ctrlField w) (valueField w)))
    ∨ (6 ≤ (topField w).toNat ∧ decodeCommand prm w = .error (.reservedOpcode (topField w))) := by
  obtain h | h | h | h | h | h | h : (topField w).toNat = 0 ∨ (topField w).toNat = 1 ∨ (topField w).toNat = 2
      ∨ (topField w).toNat = 3 ∨ (topField w).toNat = 4 ∨ (topField w).toNat = 5 ∨ 6 ≤ (topField w).toNat := by omega
  case inr.inr.inr.inr.inr.inr =>
    have hres : decodeCommand prm w = .error (.reservedOpcode (topField w)) := by
      unfold decodeCommand
      split
      case h_7 => rfl
      all_goals omega
    simp [hres, h]
  all_goals simp [decodeCommand, h]

/-- Without the direct commands a direct command has no decoding (R5). -/
@[simp] theorem directCommand_without (re : Bool) (op : Nibble) (i : Instr) :
    directCommand ⟨re, false⟩ op i = .error (.reservedOpcode op) := rfl

/-- With the direct commands, as in the block as it is built, a direct command is read as itself (R5). -/
@[simp] theorem directCommand_default (op : Nibble) (i : Instr) : directCommand Params.default op i = .ok i := rfl

/-- Opcodes from 3 on are reserved in a block built without the direct commands (R5). -/
theorem decodeCommand_without_direct (re : Bool) (w : Word) (hw : 3 ≤ (topField w).toNat) :
    decodeCommand ⟨re, false⟩ w = .error (.reservedOpcode (topField w)) := by
  obtain ⟨hop, _⟩ | ⟨hop, _⟩ | ⟨hop, _⟩ | ⟨_, hd⟩ | ⟨_, hd⟩ | ⟨_, hd⟩ | ⟨_, hd⟩ := decodeCommand_cases ⟨re, false⟩ w
  · omega
  · omega
  · omega
  all_goals simpa using hd

/-- The mission commands are read alike whatever the parameters are (R5, R75). -/
theorem decodeCommand_mission (prm prm' : Params) (w : Word) (hw : (topField w).toNat < 3) :
    decodeCommand prm w = decodeCommand prm' w := by
  obtain h | h | h : (topField w).toNat = 0 ∨ (topField w).toNat = 1 ∨ (topField w).toNat = 2 := by omega
  all_goals simp [decodeCommand, h]

/-- No command word is read as a pure operation: the six commands are transmitter rows (R41, R56). -/
theorem isPureOperation_of_decode_command (w : Word) (i : Instr) (h : decode (.command w) = .ok i) :
    isPureOperation i = false := by
  change decodeCommand Params.default w = .ok i at h
  obtain ⟨_, hd⟩ | ⟨_, hd⟩ | ⟨_, hd⟩ | ⟨_, hd⟩ | ⟨_, hd⟩ | ⟨_, hd⟩ | ⟨_, hd⟩ :=
    decodeCommand_cases Params.default w
  case inr.inr.inr.inr.inr.inr => simp [hd] at h
  all_goals
    simp only [hd, directCommand_default, Except.ok.injEq] at h
    subst h
    rfl

/-- The spec's step on a word that is decoded (R9, R75). -/
theorem blockStep_of_ok (cfg : Config) (prm : Params) (e : Bool) (w : Word) (i : Instr)
    (h : decodeCommand prm w = .ok i) :
    blockStep cfg prm e w = some (enabledAfter cfg e i, eventsOf cfg e i) := by
  simp [blockStep, h]

/-- The spec's step has no result on a word that is not decoded (R51). -/
theorem blockStep_of_error (cfg : Config) (prm : Params) (e : Bool) (w : Word) (r : DecodeError)
    (h : decodeCommand prm w = .error r) : blockStep cfg prm e w = none := by
  simp [blockStep, h]

/-- A spec run with a result is the spec's step on its first word, then a run with a result on the rest (R9, R31). -/
theorem blockRun_cons_eq_some (cfg : Config) (prm : Params) (e e' : Bool) (w : Word) (rest : List Word)
    (es : List Event) (h : blockRun cfg prm e (w :: rest) = some (e', es)) :
    ∃ e1 es1 es2, blockStep cfg prm e w = some (e1, es1) ∧ blockRun cfg prm e1 rest = some (e', es2)
      ∧ es = es1 ++ es2 := by
  cases hw : blockStep cfg prm e w with
  | none => simp [blockRun, hw] at h
  | some r =>
    cases hrest : blockRun cfg prm r.1 rest with
    | none => simp [blockRun, hw, hrest] at h
    | some q =>
      simp only [blockRun, hw, hrest, Option.some.injEq, Prod.mk.injEq] at h
      obtain ⟨rfl, rfl⟩ := h
      exact ⟨r.1, r.2, q.2, rfl, hrest, rfl⟩

/-- A spec run without a result has none for its first word, or for the rest after a step (R51). -/
theorem blockRun_cons_eq_none (cfg : Config) (prm : Params) (e : Bool) (w : Word) (rest : List Word)
    (h : blockRun cfg prm e (w :: rest) = none) :
    blockStep cfg prm e w = none
    ∨ ∃ e1 es1, blockStep cfg prm e w = some (e1, es1) ∧ blockRun cfg prm e1 rest = none := by
  cases hw : blockStep cfg prm e w with
  | none => exact .inl rfl
  | some r =>
    cases hrest : blockRun cfg prm r.1 rest with
    | none => exact .inr ⟨r.1, r.2, rfl, hrest⟩
    | some q => simp [blockRun, hw, hrest] at h

/-- A spec run over two lists is the run over the first, then the run over the second from the flag it leaves (R9, R31). -/
theorem blockRun_append (cfg : Config) (prm : Params) (e e1 e2 : Bool) (ws ws' : List Word) (es es' : List Event)
    (h : blockRun cfg prm e ws = some (e1, es)) (h' : blockRun cfg prm e1 ws' = some (e2, es')) :
    blockRun cfg prm e (ws ++ ws') = some (e2, es ++ es') := by
  induction ws generalizing e es with
  | nil =>
    simp only [blockRun, Option.some.injEq, Prod.mk.injEq] at h
    obtain ⟨rfl, rfl⟩ := h
    exact h'
  | cons w rest ih =>
    obtain ⟨em, es1, es2, hw, hrest, rfl⟩ := blockRun_cons_eq_some cfg prm e e1 w rest es h
    simp [blockRun, hw, ih em es2 hrest]

/-- A spec run over one word is the spec's step. -/
@[simp] theorem blockRun_singleton (cfg : Config) (prm : Params) (e : Bool) (w : Word) :
    blockRun cfg prm e [w] = blockStep cfg prm e w := by
  cases h : blockStep cfg prm e w <;> simp [blockRun, h]

end Sys2Proof.Machine
end

section
/-! PROOFS, 00_scope.md: the step of the machine, and its runs against the spec's. -/

namespace Sys2Proof.Machine

/-- A step on a command word that is decoded takes the word and runs the instruction. -/
theorem step_of_atPort_ok (w : Word) (rest : List HostInput) (i : Instr) (s : State) (hs : AtPort s w rest)
    (hd : decode (.command w) = .ok i) : step s = exec i { s with inputs := rest } := by
  obtain ⟨hf, hb, hi⟩ := hs
  simp [step, fetch, hf, hb, hi, hd]

/-- A step on a command word that is not decoded is refused for its opcode (R51). -/
theorem step_of_atPort_error (w : Word) (rest : List HostInput) (r : DecodeError) (s : State) (hs : AtPort s w rest)
    (hd : decode (.command w) = .error r) : step s = .refused (.reservedOpcode (topField w)) := by
  obtain ⟨hf, hb, hi⟩ := hs
  simp [step, fetch, hf, hb, hi, hd]

/-- A step with a row on the bench clears the bench and runs the row. -/
theorem step_of_bench_ok (u : SubWord) (i : Instr) (s : State) (hf : s.signal.flight = none) (hb : s.bench = some u)
    (hd : decode (.sub u) = .ok i) : step s = exec i { s with bench := none } := by
  simp [step, fetch, hf, hb, hd]

/-- What is placed is what the next step runs, in the state with nothing in flight and nothing on the bench. -/
theorem step_place (e : Encoded) (i : Instr) (s : State) (hd : decode e = .ok i) :
    step (s.place e) = exec i { s with bench := none, signal := { s.signal with flight := none } } := by
  cases e with
  | command w => exact step_of_atPort_ok w s.inputs i (s.place (.command w)) ⟨rfl, rfl, rfl⟩ hd
  | sub u => exact step_of_bench_ok u i (s.place (.sub u)) rfl rfl hd

/-- A table word is decoded as what it is written as. -/
theorem decodeTableWord_eq_some (nbits w : Nat) (i : Instr) (h : decodeTableWord nbits w = some i) :
    ∃ e, tableWord nbits w = some e ∧ decode e = .ok i := by
  cases ht : tableWord nbits w with
  | none => simp [decodeTableWord, ht] at h
  | some e =>
    cases hd : decode e with
    | ok j => exact ⟨e, rfl, by simpa [decodeTableWord, ht, hd] using h⟩
    | error r => simp [decodeTableWord, ht, hd] at h

/-- The state after a word that the spec's step answers with a flag and events. -/
def State.afterWord (s : State) (e : Bool) (es : List Event) (rest : List HostInput) : State :=
  { s with enabled := e, trace := s.trace ++ es, inputs := rest }

/-- On a word at the command port the machine's step is the spec's step: the new flag, the events added and the word taken. -/
theorem step_of_blockStep_some (w : Word) (rest : List HostInput) (s : State) (e : Bool) (es : List Event)
    (hs : AtPort s w rest) (h : blockStep Config.default Params.default s.enabled w = some (e, es)) :
    step s = .next (s.afterWord e es rest) := by
  cases hd : decodeCommand Params.default w with
  | error r => simp [blockStep_of_error _ _ _ _ r hd] at h
  | ok i =>
    rw [blockStep_of_ok _ _ _ _ i hd, Option.some.injEq, Prod.mk.injEq] at h
    obtain ⟨rfl, rfl⟩ := h
    rw [step_of_atPort_ok w rest i s hs hd, exec_eq_next_effect, effect_eq]
    simp [State.afterWord, isPureOperation_of_decode_command w i hd]

/-- On a word at the command port that has no spec step the machine is refused for its opcode. -/
theorem step_of_blockStep_none (w : Word) (rest : List HostInput) (s : State) (hs : AtPort s w rest)
    (h : blockStep Config.default Params.default s.enabled w = none) :
    step s = .refused (.reservedOpcode (topField w)) := by
  cases hd : decodeCommand Params.default w with
  | error r => exact step_of_atPort_error w rest r s hs hd
  | ok i => simp [blockStep_of_ok _ _ _ _ i hd] at h

/-- A run whose first step answers goes on from its answer. -/
theorem run_succ_of_next (M : Host.Core) (k : Nat) (s s' : M.State) (h : M.step s = .next s') :
    M.run (k + 1) s = M.run k s' := by
  simp [Host.Core.run, h]

/-- A run whose first step is refused is refused. -/
theorem run_succ_of_refused (M : Host.Core) (k : Nat) (s : M.State) (r : M.Refusal) (h : M.step s = .refused r) :
    M.run (k + 1) s = .refused r := by
  simp [Host.Core.run, h]

end Sys2Proof.Machine
end

section
/-! PROOFS, 00_scope.md: the signal level as a sequence of spec steps. The simulation is `AdvancesBy`; it holds of the empty run,
it composes, and every cycle without reset has it. -/

namespace Sys2Proof.Machine

/-- The spec's steps on some commands lead from one state's flag to another's, and give what the completed trace of the second
has beyond that of the first. -/
def AdvancesBy (s s' : State) (cmds : List Word) : Prop :=
  ∃ es : List Event,
    blockRun Config.default Params.default s.enabled cmds = some (s'.enabled, es)
    ∧ s'.complete.trace = s.complete.trace ++ es

theorem AdvancesBy.refl (s : State) : AdvancesBy s s [] := ⟨[], rfl, by simp⟩

theorem AdvancesBy.trans {s s1 s2 : State} {cmds cmds' : List Word} (h : AdvancesBy s s1 cmds)
    (h' : AdvancesBy s1 s2 cmds') : AdvancesBy s s2 (cmds ++ cmds') := by
  obtain ⟨es, hrun, htrace⟩ := h
  obtain ⟨es', hrun', htrace'⟩ := h'
  exact ⟨es ++ es', blockRun_append _ _ _ _ _ _ _ _ _ hrun hrun', by simp [htrace', htrace]⟩

/-- The events a flight still has to present. -/
def pendingEvents (flight : Option Flight) : List Event := (flight.map Flight.events).getD []

@[simp] theorem pendingEvents_none : pendingEvents none = [] := rfl

@[simp] theorem pendingEvents_some (f : Flight) : pendingEvents (some f) = f.events := rfl

/-- The trace of a completed state is the trace with the pending events after it. -/
theorem State.complete_trace (s : State) : s.complete.trace = s.trace ++ pendingEvents s.signal.flight := by
  cases h : s.signal.flight with
  | none => simp [s.complete_none h]
  | some f => simp [s.complete_some f h]

/-- Whether a finished command is held or not, what is pending is what the sequencer has left. -/
@[simp] theorem pendingEvents_flightAfter (p : Pace) (old new : Flight) :
    pendingEvents (flightAfter p old new) = new.events := by
  unfold flightAfter
  split_ifs <;> simp_all

/-- Whether a command without events is held or not, what is pending after an acceptance is the command's events. -/
@[simp] theorem pendingEvents_flightOf (p : Pace) (w : Word) (es : List Event) :
    pendingEvents (flightOf p w es) = es := by
  unfold flightOf
  split_ifs <;> simp_all

/-- The byte of a cycle takes events from the front only. -/
theorem Flight.afterBeat_events (f : Flight) (midi : Option Beat) :
    ∃ k, (f.afterBeat midi).events = f.events.drop k := by
  cases midi with
  | none => exact ⟨0, rfl⟩
  | some b =>
    cases h : b.eop with
    | true => exact ⟨1, by simp [Flight.afterBeat, h]⟩
    | false => exact ⟨0, by simp [Flight.afterBeat, h]⟩

/-- The record of a cycle takes events from the front only. -/
theorem Flight.afterRecord_events (f : Flight) (record : Option Word) :
    ∃ k, (f.afterRecord record).events = f.events.drop k := by
  cases record with
  | none => exact ⟨0, rfl⟩
  | some w => exact ⟨1, rfl⟩

/-- A cycle of presenting takes events from the front only. -/
theorem present_events (p : Pace) (f : Flight) : ∃ k, (present p f).flight.events = f.events.drop k := by
  obtain ⟨j, hj⟩ := f.afterBeat_events (chosenBeat p f)
  obtain ⟨k, hk⟩ := (f.afterBeat (chosenBeat p f)).afterRecord_events (chosenRecord p f)
  exact ⟨j + k, by rw [present, hk, hj, List.drop_drop]⟩

/-- A cycle of presenting loses no event: what it completes and what it leaves are what there was. -/
theorem completed_append_present (p : Pace) (f : Flight) :
    completed f (present p f).flight ++ (present p f).flight.events = f.events := by
  obtain ⟨k, hk⟩ := present_events p f
  rw [completed, hk, List.length_drop]
  obtain hle | hlt := Nat.le_total k f.events.length
  · rw [Nat.sub_sub_self hle, List.take_append_drop]
  · simp [List.drop_eq_nil_of_le hlt, Nat.sub_eq_zero_of_le hlt]

/-- The command that a cycle accepts, if it does (R35). -/
theorem acceptedCommands_cons (x : Sample) (rest : List Sample) :
    acceptedCommands (x :: rest) = acceptedCommands [x] ++ acceptedCommands rest :=
  List.filterMap_append (l := [x]) (l' := rest)

/-- A busy cycle runs no command: `cmd_ready` is 0, and the completed trace is as before. -/
theorem busyCycle_advancesBy (i : PortsIn) (p : Pace) (f : Flight) (s : State) (hf : s.signal.flight = some f) :
    AdvancesBy s (busyCycle i p f s).1 (acceptedCommands [⟨i, (busyCycle i p f s).2⟩]) := by
  have hacc : acceptedCommands [⟨i, (busyCycle i p f s).2⟩] = [] := by
    simp [acceptedCommands, busyCycle, wires, State.cmdReady, hf]
  rw [hacc]
  refine ⟨[], rfl, ?_⟩
  calc (busyCycle i p f s).1.complete.trace
      = s.trace ++ (completed f (present p f).flight ++ (present p f).flight.events) := by
        simp [State.complete_trace, busyCycle]
    _ = s.complete.trace ++ [] := by
        simp [completed_append_present, State.complete_trace, hf]

/-- What an idle cycle that answers does: it waits, or it accepts the command that is presented (R35); the two valids are 0. -/
theorem idleCycle_cases (i : PortsIn) (p : Pace) (s s' : State) (o : PortsOut) (h : idleCycle i p s = .next (s', o)) :
    o = wires s none none ∧
    ((i.cmdValid = false ∧ s' = s.signalNext none (waitingAfter i false))
    ∨ (i.cmdValid = true ∧ ∃ e es, blockStep Config.default Params.default s.enabled i.cmd = some (e, es)
        ∧ s' = (s.setEnabled e).signalNext (flightOf p i.cmd es) (waitingAfter i true))) := by
  cases hv : i.cmdValid with
  | false =>
    simp only [idleCycle, hv, Bool.false_eq_true, if_false, Host.Outcome.next.injEq, Prod.mk.injEq] at h
    obtain ⟨rfl, rfl⟩ := h
    exact ⟨rfl, .inl ⟨rfl, rfl⟩⟩
  | true =>
    cases hs : blockStep Config.default Params.default s.enabled i.cmd with
    | none => simp [idleCycle, hv, hs] at h
    | some r =>
      simp only [idleCycle, hv, hs, if_true, Host.Outcome.next.injEq, Prod.mk.injEq] at h
      obtain ⟨rfl, rfl⟩ := h
      exact ⟨rfl, .inr ⟨rfl, r.1, r.2, rfl, rfl⟩⟩

/-- An idle cycle that answers runs the command it accepts, if there is one, as the spec's step. -/
theorem idleCycle_advancesBy (i : PortsIn) (p : Pace) (s s' : State) (o : PortsOut) (hr : i.rst = false)
    (hf : s.signal.flight = none) (h : idleCycle i p s = .next (s', o)) :
    AdvancesBy s s' (acceptedCommands [⟨i, o⟩]) := by
  obtain ⟨rfl, ⟨hv, rfl⟩ | ⟨hv, e, es, hstep, rfl⟩⟩ := idleCycle_cases i p s s' o h
  · have hacc : acceptedCommands [⟨i, wires s none none⟩] = [] := by simp [acceptedCommands, hv]
    rw [hacc]
    exact ⟨[], rfl, by simp [State.complete_trace, hf]⟩
  · have hacc : acceptedCommands [⟨i, wires s none none⟩] = [i.cmd] := by
      simp [acceptedCommands, hv, hr, wires, State.cmdReady, hf]
    rw [hacc]
    exact ⟨es, by simpa using hstep, by simp [State.complete_trace, hf]⟩

/-- A cycle without reset keeps the signal level settled. -/
theorem cycle_settled (i : PortsIn) (p : Pace) (s s' : State) (o : PortsOut) (hs : s.signal.settled = true)
    (hr : i.rst = false) (h : cycle i p s = .next (s', o)) : s'.signal.settled = true := by
  obtain ⟨-, ⟨hrst, -⟩ | ⟨-, hun, -⟩ | ⟨-, f, -, hbusy⟩ | ⟨-, -, hidle⟩⟩ := cycle_cases i p s (s', o) h
  · simp [hr] at hrst
  · simp [hs] at hun
  · obtain ⟨rfl, -⟩ := Prod.mk.inj hbusy
    exact hs
  · obtain ⟨-, ⟨-, rfl⟩ | ⟨-, e, es, -, rfl⟩⟩ := idleCycle_cases i p s s' o hidle
    · exact hs
    · exact hs

/-- THE STEP OF THE SIMULATION: a cycle without reset runs the command it accepts. -/
theorem cycle_advancesBy (i : PortsIn) (p : Pace) (s s' : State) (o : PortsOut) (hs : s.signal.settled = true)
    (hr : i.rst = false) (h : cycle i p s = .next (s', o)) : AdvancesBy s s' (acceptedCommands [⟨i, o⟩]) := by
  obtain ⟨-, ⟨hrst, -⟩ | ⟨-, hun, -⟩ | ⟨-, f, ⟨-, hf⟩, hbusy⟩ | ⟨-, ⟨-, hf⟩, hidle⟩⟩ := cycle_cases i p s (s', o) h
  · simp [hr] at hrst
  · simp [hs] at hun
  · obtain ⟨rfl, rfl⟩ := Prod.mk.inj hbusy
    exact busyCycle_advancesBy i p f s hf
  · exact idleCycle_advancesBy i p s s' o hr hf hidle

/-- A run of cycles that answers is a cycle that answers and a run that does. -/
theorem runCycles_cons_next (i : PortsIn) (p : Pace) (rest : List (PortsIn × Pace)) (s s' : State)
    (samples : List Sample) (h : runCycles ((i, p) :: rest) s = .next (s', samples)) :
    ∃ s1 o samples', cycle i p s = .next (s1, o) ∧ runCycles rest s1 = .next (s', samples')
      ∧ samples = ⟨i, o⟩ :: samples' := by
  cases hc : cycle i p s with
  | fault r => simp [runCycles, hc] at h
  | refused r => simp [runCycles, hc] at h
  | next q =>
    obtain ⟨s1, o⟩ := q
    cases hr : runCycles rest s1 with
    | fault r => simp [runCycles, hc, hr] at h
    | refused r => simp [runCycles, hc, hr] at h
    | next q' =>
      obtain ⟨s2, samples'⟩ := q'
      simp only [runCycles, hc, hr, Host.Outcome.next.injEq, Prod.mk.injEq] at h
      obtain ⟨rfl, rfl⟩ := h
      exact ⟨s1, o, samples', rfl, hr, rfl⟩

/-- A run of cycles without reset runs the commands it accepts. -/
theorem runCycles_advancesBy (drive : List (PortsIn × Pace)) (s s' : State) (samples : List Sample)
    (hs : s.signal.settled = true) (hr : ∀ x ∈ drive, x.1.rst = false)
    (h : runCycles drive s = .next (s', samples)) : AdvancesBy s s' (acceptedCommands samples) := by
  induction drive generalizing s samples with
  | nil =>
    simp only [runCycles, Host.Outcome.next.injEq, Prod.mk.injEq] at h
    obtain ⟨rfl, rfl⟩ := h
    exact .refl s
  | cons x rest ih =>
    obtain ⟨i, p⟩ := x
    obtain ⟨hi, hrest⟩ := List.forall_mem_cons.mp hr
    obtain ⟨s1, o, samples', hc, hrun, rfl⟩ := runCycles_cons_next i p rest s s' samples h
    rw [acceptedCommands_cons]
    exact (cycle_advancesBy i p s s1 o hs hi hc).trans
      (ih s1 samples' (cycle_settled i p s s1 o hs hi hc) hrest hrun)

end Sys2Proof.Machine
end

section
/-! PROOFS, 00_scope.md: the statements of the family, each assembled from the facts above. -/

namespace Sys2Proof.Machine

/-- Settles O27: the arms of `exec` call the effects of the block with the default `Config`. -/
theorem everyInstructionCompletes : Obligations.EveryInstructionCompletes := exec_eq_next_effect

/-- Settles O40: the word at the port, the row on the bench, and the table word, which `withFetchWord` puts in one of these two
places. -/
theorem stepRunsTheDecodedInstruction : Obligations.StepRunsTheDecodedInstruction := by
  refine ⟨step_of_atPort_ok, step_of_bench_ok, fun nbits w i s h => ?_⟩
  obtain ⟨e, ht, hd⟩ := decodeTableWord_eq_some nbits w i h
  have hplace : s.withFetchWord nbits w = s.place e := by simp [State.withFetchWord, ht]
  rw [hplace]
  exact step_place e i s hd

/-- Settles O7: the decoder alone reads the parameter, so that both clauses are facts about the decoder. -/
theorem withoutDirectCommandsOnlyMissionCommandsRun : Obligations.WithoutDirectCommandsOnlyMissionCommandsRun := by
  intro cfg re enabled w
  constructor
  · intro hw
    exact blockStep_of_error _ _ _ _ _ (decodeCommand_without_direct re w hw)
  · intro hw
    rw [blockStep, blockStep, decodeCommand_mission ⟨re, false⟩ ⟨re, true⟩ w hw]

/-- Settles O28: the fields of the state that `effect_eq` gives. -/
theorem effectDependsOnTheFlagAndTheRowAlone : Obligations.EffectDependsOnTheFlagAndTheRowAlone := by
  intro cfg i s
  rw [effect_eq]
  exact ⟨rfl, rfl, rfl, rfl, rfl, rfl, drivenBy_isSome cfg i⟩

/-- Settles O45, by induction on the list of words: a machine step is a spec step, or is refused where there is none. -/
theorem machineRunIsTheSpecRun : Obligations.MachineRunIsTheSpecRun := by
  intro ws
  induction ws with
  | nil =>
    intro s hf hb hi
    refine ⟨fun e es h => ?_, fun h => by simp [blockRun] at h⟩
    simp only [blockRun, Option.some.injEq, Prod.mk.injEq] at h
    obtain ⟨rfl, rfl⟩ := h
    have hs : s = { s with enabled := s.enabled, trace := s.trace ++ [], inputs := [] } := by
      rw [List.append_nil, ← List.map_nil, ← hi]
    exact congrArg Host.Outcome.next hs
  | cons w rest ih =>
    intro s hf hb hi
    have hport : AtPort s w (rest.map HostInput.command) := ⟨hf, hb, hi⟩
    constructor
    · intro e es h
      obtain ⟨e1, es1, es2, hw, hrest, rfl⟩ := blockRun_cons_eq_some _ _ _ e w rest es h
      have hstep := step_of_blockStep_some w _ s e1 es1 hport hw
      obtain ⟨hsome, -⟩ := ih (s.afterWord e1 es1 (rest.map HostInput.command)) hf hb rfl
      rw [List.length_cons, run_succ_of_next Sys2Proof.core rest.length s _ hstep, hsome e es2 hrest]
      simp [State.afterWord]
    · intro h
      obtain hw | ⟨e1, es1, hw, hrest⟩ := blockRun_cons_eq_none _ _ _ w rest h
      · have hstep := step_of_blockStep_none w _ s hport hw
        exact ⟨topField w, run_succ_of_refused Sys2Proof.core rest.length s _ hstep⟩
      · have hstep := step_of_blockStep_some w _ s e1 es1 hport hw
        obtain ⟨-, hnone⟩ := ih (s.afterWord e1 es1 (rest.map HostInput.command)) hf hb rfl
        rw [List.length_cons, run_succ_of_next Sys2Proof.core rest.length s _ hstep]
        exact hnone hrest

/-- Settles O55, by induction on the cycles: `AdvancesBy` is the simulation, and a cycle is its step. -/
theorem signalLevelRefinesTheTransactionLevel : Obligations.SignalLevelRefinesTheTransactionLevel :=
  runCycles_advancesBy

end Sys2Proof.Machine
end

section
/-! PROOFS, 10_state.md: the flag. SETEN alone writes it, and a row meets the flag that it leaves as it met the first. -/

namespace Sys2Proof.Machine

/-- A row is SETEN, or it leaves the flag as it is, with any `Config` (R10, R84 d). -/
theorem seten_or_enabledAfter_eq (cfg : Config) (i : Instr) :
    (∃ en, i = .seten en) ∨ ∀ e, enabledAfter cfg e i = e := by
  cases i with
  | seten en => exact .inl ⟨en, rfl⟩
  | sel color => exact .inr fun e => congrArg State.enabled (selOp_eq_emit cfg color (blank e))
  | cccol color => exact .inr fun e => congrArg State.enabled (cccolOp_eq_emit cfg color (blank e))
  | sxcol color => exact .inr fun e => congrArg State.enabled (sxcolOp_eq_emit cfg color (blank e))
  | vcc ctrl value =>
    obtain ⟨es, hes⟩ := vccOp_eq_emit cfg ctrl value
    exact .inr fun e => congrArg State.enabled (hes (blank e))
  | selnone | ccRLo n | ccRHi n | ccGLo n | ccGHi n | ccBLo n | ccBHi n | ccGeneric ctrl value | sysexColor d0 d1 d2 d3
  | logSelChanged | logCcSent ctrl value | logCcRangeErr ctrl value | logSxSent color
  | chan color | nib ch | enccc color | encsx color | valid7 value =>
    exact .inr fun _ => rfl

@[simp] theorem enabledAfter_seten (cfg : Config) (e en : Bool) : enabledAfter cfg e (.seten en) = en := rfl

@[simp] theorem eventsOf_seten (cfg : Config) (e en : Bool) : eventsOf cfg e (.seten en) = [] := rfl

/-- A row run again finds the flag that the first run left and leaves it so. -/
@[simp] theorem enabledAfter_enabledAfter (cfg : Config) (e : Bool) (i : Instr) :
    enabledAfter cfg (enabledAfter cfg e i) i = enabledAfter cfg e i := by
  obtain ⟨en, rfl⟩ | hkeep := seten_or_enabledAfter_eq cfg i
  · simp
  · exact hkeep _

/-- A row run again emits the same events: a row that emits leaves the flag, and SETEN emits nothing. -/
@[simp] theorem eventsOf_enabledAfter (cfg : Config) (e : Bool) (i : Instr) :
    eventsOf cfg (enabledAfter cfg e i) i = eventsOf cfg e i := by
  obtain ⟨en, rfl⟩ | hkeep := seten_or_enabledAfter_eq cfg i
  · simp
  · rw [hkeep]

/-- A word stepped again, from the flag its first step left, has the same result. -/
theorem blockStep_again (cfg : Config) (prm : Params) (e e' : Bool) (es : List Event) (w : Word)
    (h : blockStep cfg prm e w = some (e', es)) : blockStep cfg prm e' w = some (e', es) := by
  cases hd : decodeCommand prm w with
  | error r => simp [blockStep_of_error _ _ _ _ r hd] at h
  | ok i =>
    rw [blockStep_of_ok _ _ _ _ i hd, Option.some.injEq, Prod.mk.injEq] at h
    obtain ⟨rfl, rfl⟩ := h
    simp [blockStep_of_ok _ _ _ _ i hd]

end Sys2Proof.Machine
end

section
/-! PROOFS, 10_state.md: the sequencer. What a position it can be in is, and that accepting, presenting and completing a command
lead from one such position to another. -/

namespace Sys2Proof.Machine

/-- No message among the events is empty. -/
def NoEmptyMessage (es : List Event) : Prop := ∀ bytes, .midi bytes ∈ es → bytes ≠ []

@[simp] theorem noEmptyMessage_nil : NoEmptyMessage [] := by simp [NoEmptyMessage]

@[simp] theorem noEmptyMessage_cons_midi (bytes : List Byte) (es : List Event) :
    NoEmptyMessage (.midi bytes :: es) ↔ bytes ≠ [] ∧ NoEmptyMessage es := by
  simp [NoEmptyMessage, or_imp, forall_and]

@[simp] theorem noEmptyMessage_cons_log (code : Nibble) (payload : BitVec 28) (es : List Event) :
    NoEmptyMessage (.log code payload :: es) ↔ NoEmptyMessage es := by
  simp [NoEmptyMessage]

@[simp] theorem noEmptyMessage_append (es es' : List Event) :
    NoEmptyMessage (es ++ es') ↔ NoEmptyMessage es ∧ NoEmptyMessage es' := by
  simp [NoEmptyMessage, or_imp, forall_and]

theorem NoEmptyMessage.drop {es : List Event} (h : NoEmptyMessage es) (k : Nat) : NoEmptyMessage (es.drop k) :=
  fun bytes hb => h bytes (List.mem_of_mem_drop hb)

/-- The first message is one of the events. -/
theorem mem_of_firstMessage (es : List Event) (bytes : List Byte) (h : firstMessage es = some bytes) :
    .midi bytes ∈ es := by
  induction es with
  | nil => simp [firstMessage] at h
  | cons e rest ih =>
    cases e with
    | midi b =>
      obtain rfl : b = bytes := by simpa [firstMessage] using h
      exact List.mem_cons_self
    | log code payload => exact List.mem_cons_of_mem _ (ih h)

/-- A position the sequencer can be in, in terms of its events and its byte count. -/
theorem Flight.ok_iff (f : Flight) :
    f.ok = true ↔ NoEmptyMessage f.events ∧ (firstMessage f.events = none → f.sent = 0)
      ∧ ∀ bytes, firstMessage f.events = some bytes → f.sent < bytes.length := by
  unfold Flight.ok
  rw [Bool.and_eq_true, List.all_eq_true]
  refine and_congr ⟨fun h bytes hb => by simpa using h _ hb, fun h e he => ?_⟩ ?_
  · cases e with
    | midi bytes => simpa using h bytes he
    | log code payload => rfl
  · cases firstMessage f.events <;> simp

/-- Before the first byte of a message the sequencer is at a position it can be in, if no message is empty. -/
theorem Flight.ok_of_sent_eq_zero (f : Flight) (hne : NoEmptyMessage f.events) (hs : f.sent = 0) : f.ok = true :=
  f.ok_iff.mpr ⟨hne, fun _ => hs, fun bytes hb => by
    rw [hs]
    exact List.length_pos_iff.mpr (hne bytes (mem_of_firstMessage _ _ hb))⟩

/-- The byte that may be presented is the next one of the first message, and `eop` marks the last (R36). -/
theorem nextBeat_eq_some (f : Flight) (b : Beat) (h : nextBeat f = some b) :
    ∃ bytes, firstMessage f.events = some bytes ∧ f.sent < bytes.length
      ∧ b.eop = decide (f.sent + 1 = bytes.length) := by
  cases hm : firstMessage f.events with
  | none => simp [nextBeat, hm] at h
  | some bytes =>
    cases hd : bytes.drop f.sent with
    | nil => simp [nextBeat, hm, hd] at h
    | cons a rest =>
      have hlen : bytes.length - f.sent = rest.length + 1 := by simpa using congrArg List.length hd
      have heop : b.eop = rest.isEmpty := by
        simp only [nextBeat, hm, hd] at h
        split at h
        · cases h
        · cases h
          rfl
      refine ⟨bytes, rfl, by omega, ?_⟩
      rw [heop, Bool.eq_iff_iff, List.isEmpty_iff, decide_eq_true_iff, ← List.length_eq_zero_iff]
      omega

/-- The record that may be presented is the first event in flight (R32, R37). -/
theorem nextRecord_eq_some (f : Flight) (w : Word) (h : nextRecord f = some w) :
    ∃ code payload rest, f.events = .log code payload :: rest ∧ w = joinWord code payload := by
  unfold nextRecord at h
  split at h
  case h_1 code payload rest hev => exact ⟨code, payload, rest, hev, (Option.some.inj h).symm⟩
  case h_2 => cases h

/-- A cycle presents the byte that may be presented, or none. -/
theorem chosenBeat_cases (p : Pace) (f : Flight) : chosenBeat p f = none ∨ chosenBeat p f = nextBeat f := by
  cases hp : p.byte <;> simp [chosenBeat, hp]

/-- A cycle presents the record that may be presented after its byte, or none. -/
theorem chosenRecord_cases (p : Pace) (f : Flight) :
    chosenRecord p f = none ∨ chosenRecord p f = nextRecord (f.afterBeat (chosenBeat p f)) := by
  cases hp : p.record <;> simp [chosenRecord, hp]

/-- The next byte leads to a position the sequencer can be in: past the message if it is its last one, and within it if not. -/
theorem Flight.ok_afterBeat_nextBeat (f : Flight) (h : f.ok = true) : (f.afterBeat (nextBeat f)).ok = true := by
  obtain ⟨hne, -, -⟩ := f.ok_iff.mp h
  cases hb : nextBeat f with
  | none => exact h
  | some b =>
    obtain ⟨bytes, hm, hlt, heop⟩ := nextBeat_eq_some f b hb
    cases hlast : b.eop with
    | true =>
      simp only [Flight.afterBeat, hlast, if_true]
      exact Flight.ok_of_sent_eq_zero _ (hne.drop 1) rfl
    | false =>
      have hmore : f.sent + 1 ≠ bytes.length := by simpa [hlast] using heop
      simp only [Flight.afterBeat, hlast, Bool.false_eq_true, if_false]
      refine (Flight.ok_iff _).mpr ⟨hne, by simp [hm], fun bytes' hm' => ?_⟩
      obtain rfl : bytes = bytes' := Option.some.inj (hm.symm.trans hm')
      change f.sent + 1 < bytes.length
      omega

/-- The next record leads to a position the sequencer can be in: the first message in flight stays the first. -/
theorem Flight.ok_afterRecord_nextRecord (f : Flight) (h : f.ok = true) : (f.afterRecord (nextRecord f)).ok = true := by
  cases hw : nextRecord f with
  | none => exact h
  | some w =>
    obtain ⟨code, payload, rest, hev, -⟩ := nextRecord_eq_some f w hw
    obtain ⟨hne, hpos⟩ := f.ok_iff.mp h
    have hfirst : firstMessage (f.events.drop 1) = firstMessage f.events := by rw [hev]; rfl
    exact (Flight.ok_iff _).mpr ⟨hne.drop 1, by simpa only [Flight.afterRecord, hfirst] using hpos⟩

/-- A cycle of presenting keeps the sequencer at a position it can be in (R36, R37). -/
theorem present_ok (p : Pace) (f : Flight) (h : f.ok = true) : (present p f).flight.ok = true := by
  have hbeat : (f.afterBeat (chosenBeat p f)).ok = true := by
    obtain hc | hc := chosenBeat_cases p f <;> rw [hc]
    · exact h
    · exact f.ok_afterBeat_nextBeat h
  change ((f.afterBeat (chosenBeat p f)).afterRecord (chosenRecord p f)).ok = true
  obtain hc | hc := chosenRecord_cases p f <;> rw [hc]
  · exact hbeat
  · exact Flight.ok_afterRecord_nextRecord _ hbeat

@[simp] theorem ccMessage_ne_nil (cfg : Config) (ctrl value : Byte) : ccMessage cfg ctrl value ≠ [] := by
  simp [ccMessage]

@[simp] theorem encsx_ne_nil (cfg : Config) (color : Color) : encsx cfg color ≠ [] := by simp [encsx]

@[simp] theorem sysexFrame_ne_nil (cfg : Config) (d0 d1 d2 d3 : Septet) : sysexFrame cfg d0 d1 d2 d3 ≠ [] := by
  simp [sysexFrame]

@[simp] theorem noEmptyMessage_nibbleEvents (cfg : Config) (pairs : List (Byte × Nibble)) :
    NoEmptyMessage (pairs.flatMap (nibbleEvents cfg)) := by
  induction pairs with
  | nil => exact noEmptyMessage_nil
  | cons pair rest ih => simp [nibbleEvents, ih]

@[simp] theorem noEmptyMessage_cccolEvents (cfg : Config) (color : Color) (enabled : Bool) :
    NoEmptyMessage (cccolEvents cfg color enabled) := by
  cases enabled <;> simp [cccolEvents]

@[simp] theorem noEmptyMessage_sxcolEvents (cfg : Config) (color : Color) (enabled : Bool) :
    NoEmptyMessage (sxcolEvents cfg color enabled) := by
  cases enabled <;> simp [sxcolEvents]

/-- The events of a row whose effect is an emission are the emitted ones. -/
theorem noEmptyMessage_of_emit {cfg : Config} {e : Bool} {i : Instr} {es : List Event}
    (h : effect cfg i (blank e) = (blank e).emit es) (hne : NoEmptyMessage es) : NoEmptyMessage (eventsOf cfg e i) := by
  have hev : eventsOf cfg e i = es := congrArg State.trace h
  rwa [hev]

/-- No row emits an empty message: a CC message has three bytes and a frame has eight (R42, R44). -/
theorem noEmptyMessage_eventsOf (cfg : Config) (e : Bool) (i : Instr) : NoEmptyMessage (eventsOf cfg e i) := by
  cases i with
  | selnone | seten en | chan color | nib ch | enccc color | encsx color | valid7 value => exact noEmptyMessage_nil
  | sel color => exact noEmptyMessage_of_emit (selOp_eq_emit cfg color (blank e)) (by simp [selEvents])
  | cccol color => exact noEmptyMessage_of_emit (cccolOp_eq_emit cfg color (blank e)) (by simp)
  | sxcol color => exact noEmptyMessage_of_emit (sxcolOp_eq_emit cfg color (blank e)) (by simp)
  | vcc ctrl value =>
    obtain ⟨-, hsent⟩ | ⟨-, hrefused⟩ := vccOp_cases cfg ctrl value (blank e)
    · exact noEmptyMessage_of_emit hsent (by simp)
    · exact noEmptyMessage_of_emit (hrefused.trans (State.raiseOutOfRange_eq_emit _ ctrl value)) (by simp)
  | ccRLo n | ccRHi n | ccGLo n | ccGHi n | ccBLo n | ccBHi n | ccGeneric ctrl value =>
    exact noEmptyMessage_of_emit (es := [.midi (ccMessage cfg _ _)]) rfl (by simp)
  | sysexColor d0 d1 d2 d3 =>
    exact noEmptyMessage_of_emit (es := [.midi (sysexFrame cfg d0 d1 d2 d3)]) rfl (by simp)
  | logSelChanged | logCcSent ctrl value | logCcRangeErr ctrl value | logSxSent color =>
    exact noEmptyMessage_of_emit (es := [.log _ _]) rfl (by simp)

/-- The spec's step emits no empty message. -/
theorem noEmptyMessage_of_blockStep (cfg : Config) (prm : Params) (e e' : Bool) (es : List Event) (w : Word)
    (h : blockStep cfg prm e w = some (e', es)) : NoEmptyMessage es := by
  cases hd : decodeCommand prm w with
  | error r => simp [blockStep_of_error _ _ _ _ r hd] at h
  | ok i =>
    rw [blockStep_of_ok _ _ _ _ i hd, Option.some.injEq, Prod.mk.injEq] at h
    obtain ⟨-, rfl⟩ := h
    exact noEmptyMessage_eventsOf cfg e i

/-- What is in flight after a cycle of presenting is what the sequencer has left. -/
theorem flightAfter_eq_some (p : Pace) (old new f : Flight) (h : flightAfter p old new = some f) : f = new := by
  unfold flightAfter at h
  split_ifs at h <;> exact (Option.some.inj h).symm

/-- What is in flight after an acceptance is the command with all its events still to come. -/
theorem flightOf_eq_some (p : Pace) (w : Word) (es : List Event) (f : Flight) (h : flightOf p w es = some f) :
    f = { word := w, events := es, sent := 0 } := by
  unfold flightOf at h
  split_ifs at h
  exact (Option.some.inj h).symm

/-- The signal level is at a position the block can reach when what is in flight, if anything is, is at one. -/
theorem State.flightOk_iff (s : State) : s.flightOk = true ↔ ∀ f, s.signal.flight = some f → f.ok = true := by
  cases h : s.signal.flight <;> simp [State.flightOk, h]

/-- The sequencer part and the reset part of what every transition keeps. -/
def KeepsPosition (s s' : State) : Prop :=
  (s.flightOk = true → s'.flightOk = true) ∧ (s.signal.settled = true → s'.signal.settled = true)

/-- A transition after which nothing is in flight keeps the position. -/
theorem KeepsPosition.of_idle {s s' : State} (hf : s'.signal.flight = none)
    (hs : s.signal.settled = true → s'.signal.settled = true) : KeepsPosition s s' :=
  ⟨fun _ => s'.flightOk_iff.mpr (by simp [hf]), hs⟩

/-- A transition that leaves the signal level as it is keeps the position. -/
theorem KeepsPosition.of_signal_eq {s s' : State} (h : s'.signal = s.signal) : KeepsPosition s s' := by
  constructor <;> simp [State.flightOk, h]

/-- An instruction leaves the signal level as it is. -/
theorem exec_signal (i : Instr) (s s' : State) (h : exec i s = .next s') : s'.signal = s.signal := by
  rw [exec_eq_next_effect, effect_eq] at h
  obtain rfl := Host.Outcome.next.inj h
  rfl

theorem busyCycle_keepsPosition (i : PortsIn) (p : Pace) (f : Flight) (s : State) (hf : s.signal.flight = some f) :
    KeepsPosition s (busyCycle i p f s).1 := by
  refine ⟨fun hok => (State.flightOk_iff _).mpr fun g hg => ?_, fun hs => hs⟩
  obtain rfl := flightAfter_eq_some p f _ g hg
  exact present_ok p f (s.flightOk_iff.mp hok f hf)

theorem idleCycle_keepsPosition (i : PortsIn) (p : Pace) (s s' : State) (o : PortsOut)
    (h : idleCycle i p s = .next (s', o)) : KeepsPosition s s' := by
  obtain ⟨-, ⟨-, rfl⟩ | ⟨-, e, es, hstep, rfl⟩⟩ := idleCycle_cases i p s s' o h
  · exact .of_idle rfl fun hs => hs
  · refine ⟨fun _ => (State.flightOk_iff _).mpr fun g hg => ?_, fun hs => hs⟩
    obtain rfl := flightOf_eq_some p i.cmd es g hg
    exact Flight.ok_of_sent_eq_zero _ (noEmptyMessage_of_blockStep _ _ _ _ _ _ hstep) rfl

theorem cycle_keepsPosition (i : PortsIn) (p : Pace) (s s' : State) (o : PortsOut) (h : cycle i p s = .next (s', o)) :
    KeepsPosition s s' := by
  obtain ⟨-, ⟨-, -, hreset⟩ | ⟨-, -, hunreset⟩ | ⟨-, f, ⟨-, hf⟩, hbusy⟩ | ⟨-, -, hidle⟩⟩ := cycle_cases i p s (s', o) h
  · obtain ⟨rfl, -⟩ := Prod.mk.inj hreset
    exact .of_idle rfl fun _ => rfl
  · obtain ⟨rfl, -⟩ := Prod.mk.inj hunreset
    exact ⟨fun hok => hok, fun hs => hs⟩
  · obtain ⟨rfl, -⟩ := Prod.mk.inj hbusy
    exact busyCycle_keepsPosition i p f s hf
  · exact idleCycle_keepsPosition i p s s' o hidle

theorem step_keepsPosition (s s' : State) (h : step s = .next s') : KeepsPosition s s' := by
  obtain ⟨f, hf, hx⟩ | ⟨-, u, i, -, -, hx⟩ | ⟨-, u, e, -, -, hx⟩ | ⟨-, -, -, hx⟩ | ⟨-, -, rest, -, hx⟩
    | ⟨-, -, w, rest, i, -, -, hx⟩ | ⟨-, -, w, rest, e, -, -, hx⟩ := fetch_cases s
  all_goals simp only [step, hx, Host.Outcome.next.injEq, reduceCtorEq] at h
  · subst h
    exact .of_idle (by rw [s.complete_some f hf]) (by simp)
  · exact .of_signal_eq (exec_signal i { s with bench := none } s' h)
  · subst h
    exact .of_signal_eq rfl
  · subst h
    exact .of_idle rfl fun _ => rfl
  · exact .of_signal_eq (exec_signal i { s with inputs := rest } s' h)

end Sys2Proof.Machine
end

section
/-! PROOFS, 10_state.md: the reset edge and the cycle with `rst = 1`. -/

namespace Sys2Proof.Machine

/-- Whatever the state is, a reset edge leaves a block that the rules hold for, with nothing in flight (R17, R105). -/
theorem State.resetEdge_ready (s : State) : Ready s.resetEdge := ⟨rfl, rfl⟩

/-- With `rst = 1` a cycle is a reset cycle, unless a command that was accepted is in flight (R95, R105, R108). -/
theorem cycle_of_rst (i : PortsIn) (p : Pace) (s : State) (hr : i.rst = true) (hw : withdrawn s i = false)
    (hf : s.signal.settled = true → s.signal.flight = none) : cycle i p s = .next (resetCycle i s) := by
  cases hs : s.signal.settled with
  | false => simp [cycle, hw, hr, hs]
  | true => simp [cycle, hw, hr, hf hs]

/-- In the middle of a command a cycle with `rst = 1` is the fault of the run (R107, U5). -/
theorem cycle_of_rst_inFlight (i : PortsIn) (p : Pace) (f : Flight) (s : State) (hr : i.rst = true)
    (hw : withdrawn s i = false) (hf : InFlight s f) : cycle i p s = .fault .resetInFlight := by
  obtain ⟨hs, hflight⟩ := hf
  simp [cycle, hw, hr, hs, hflight]

/-- A reset cycle leaves the reset state, whatever the state was (R105). -/
theorem resetCycle_fst (i : PortsIn) (s : State) :
    (resetCycle i s).1.enabled = true ∧ (resetCycle i s).1.trace = [] ∧ Ready (resetCycle i s).1
      ∧ (resetCycle i s).1.signal.waiting = (if i.cmdValid then some i.cmd else none) :=
  ⟨rfl, rfl, ⟨rfl, rfl⟩, waitingAfter_false i⟩

/-- Once a reset edge has passed a reset cycle presents nothing, and `enabled_o` is still the flag (R17, R19). -/
theorem resetCycle_snd_of_settled (i : PortsIn) (s : State) (hs : s.signal.settled = true) :
    (resetCycle i s).2.midiValid = false ∧ (resetCycle i s).2.logValid = false
      ∧ (resetCycle i s).2.enabledO = s.enabled := by
  simp [resetCycle, hs, resetWires, wires, State.enabledOut]

/-- A reset cycle accepts nothing, before the first reset edge as after it (R105, R108). -/
theorem resetCycle_cmdReady (i : PortsIn) (s : State) : (resetCycle i s).2.cmdReady = false := by
  cases hs : s.signal.settled <;> simp [resetCycle, hs, resetWires, powerUpWires, State.cmdReady]

end Sys2Proof.Machine
end

section
/-! PROOFS, 10_state.md: the statements of the family, each assembled from the facts above. -/

namespace Sys2Proof.Machine

/-- Settles O38: the second step of the word meets the flag that the first left, and has the same result. -/
theorem sameCommandTwiceEmitsTwice : Obligations.SameCommandTwiceEmitsTwice := by
  intro cfg prm e e' es w h
  have hagain : blockRun cfg prm e' [w] = some (e', es) := by
    rw [blockRun_singleton]
    exact blockStep_again cfg prm e e' es w h
  exact blockRun_append cfg prm e e' e' [w] [w] es es (by rw [blockRun_singleton, h]) hagain

/-- Settles O53: a cycle, of whichever kind it is, and a step keep what is kept. -/
theorem sequencerPositionIsKept : Obligations.SequencerPositionIsKept := ⟨cycle_keepsPosition, step_keepsPosition⟩

/-- Settles O31: the flag after an instruction is `enabledAfter`, which SETEN alone moves. -/
theorem onlySetenChangesTheFlag : Obligations.OnlySetenChangesTheFlag := by
  intro i s t h hne
  rw [exec_eq_next_effect, effect_eq] at h
  obtain rfl := Host.Outcome.next.inj h
  obtain ⟨en, rfl⟩ | hkeep := seten_or_enabledAfter_eq Config.default i
  · exact ⟨en, rfl, rfl⟩
  · exact absurd (hkeep s.enabled) hne

/-- Settles O42: the fields of the reset state. -/
theorem resetStateIsEnabledAndSilent : Obligations.ResetStateIsEnabledAndSilent := ⟨rfl, rfl, rfl, rfl, rfl, rfl⟩

/-- Settles O44: a command in flight is what the fetch looks at first, and it is completed. -/
theorem stepCompletesTheCommandInFlight : Obligations.StepCompletesTheCommandInFlight := by
  intro f s hf
  have hstep : step s = .next s.complete := by simp [step, fetch, hf]
  rw [hstep, s.complete_some f hf]

/-- Settles O48: the trace is empty, and nothing is in flight, waiting or on the bench. -/
theorem resetMeetsTheInvariants : Obligations.ResetMeetsTheInvariants := ⟨rfl, ⟨rfl, rfl⟩, rfl, rfl, rfl⟩

/-- Settles O58: the reset edge, the cycle of a block that is ready, the first reset cycle after power-up, and the cycle in the
middle of a command. -/
theorem resetCycleWins : Obligations.ResetCycleWins := by
  refine ⟨fun s => ⟨rfl, rfl, s.resetEdge_ready, rfl⟩, fun i p s hr hw hready => ?_, fun i p s hr => ?_,
    cycle_of_rst_inFlight⟩
  · obtain ⟨hs, hf⟩ := hready
    obtain ⟨henabled, htrace, hready', hwaiting⟩ := resetCycle_fst i s
    obtain ⟨hmidi, hlog, henabledO⟩ := resetCycle_snd_of_settled i s hs
    exact ⟨_, _, cycle_of_rst i p s hr hw fun _ => hf, resetCycle_cmdReady i s, hmidi, hlog, henabledO, henabled, htrace,
      hready', hwaiting⟩
  · obtain ⟨henabled, htrace, hready', -⟩ := resetCycle_fst i s.powerUp
    exact ⟨_, _, cycle_of_rst i p s.powerUp hr (withdrawn_powerUp s i) (by simp), resetCycle_cmdReady i s.powerUp,
      henabled, htrace, hready'⟩

end Sys2Proof.Machine
end

section
/-! PROOFS, 20_memory.md: the bits of the words, messages and channels that the statements of the family speak of. -/

namespace Sys2Proof.Machine

@[simp] theorem topField_joinWord (top : Nibble) (low : BitVec 28) : topField (joinWord top low) = top :=
  BitVec.extractLsb'_append_eq_left

@[simp] theorem colorField_joinWord (top : Nibble) (low : BitVec 28) : colorField (joinWord top low) = low :=
  BitVec.extractLsb'_append_eq_right

@[simp] theorem ctrlField_joinWord_ctrlValue (top : Nibble) (ctrl value : Byte) :
    ctrlField (joinWord top (ctrlValue ctrl value)) = ctrl := by
  apply BitVec.eq_of_getLsbD_eq
  intro k hk
  rw [ctrlField, BitVec.getLsbD_extractLsb', joinWord_getLsbD, if_pos (by omega), ctrlValue_getLsbD, if_neg (by omega)]
  simp [hk]

@[simp] theorem valueField_joinWord_ctrlValue (top : Nibble) (ctrl value : Byte) :
    valueField (joinWord top (ctrlValue ctrl value)) = value := by
  apply BitVec.eq_of_getLsbD_eq
  intro k hk
  rw [valueField, BitVec.getLsbD_extractLsb', joinWord_getLsbD, if_pos (by omega), ctrlValue_getLsbD, if_pos (by omega)]
  simp [hk]

/-- The opcode of a word that is written as opcode, ignored bits and one more bit (R40). -/
theorem topField_append (op : Nibble) (x : BitVec 27) (y : BitVec 1) : topField (op ++ x ++ y) = op :=
  (BitVec.extractLsb'_append_eq_of_le (by decide)).trans BitVec.extractLsb'_append_eq_left

/-- The operand of SETEN is the last bit of its word (R40). -/
theorem enField_append (x : BitVec 31) (en : Bool) : enField (x ++ BitVec.ofBool en) = en :=
  (BitVec.getLsbD_append (x := x) (y := BitVec.ofBool en)).trans (by simp)

/-- A SETEN word is read as SETEN of its last bit, whatever its ignored bits are (R40, R52). -/
theorem decodeCommand_seten (prm : Params) (x : BitVec 27) (en : Bool) :
    decodeCommand prm (0x2#4 ++ x ++ BitVec.ofBool en) = .ok (.seten en) := by
  have htop : (topField (0x2#4 ++ x ++ BitVec.ofBool en)).toNat = 2 := by rw [topField_append]; rfl
  have hen : enField (0x2#4 ++ x ++ BitVec.ofBool en) = en := enField_append (0x2#4 ++ x) en
  simp only [decodeCommand, htop, hen]

/-- The payload of a CC record has zeros above the controller (R53). -/
theorem ctrlValue_lt (ctrl value : Byte) : (ctrlValue ctrl value).toNat < 2 ^ 16 := by
  refine Nat.lt_pow_two_of_testBit _ fun k hk => ?_
  rw [BitVec.testBit_toNat, ctrlValue_getLsbD, if_neg (by omega)]
  exact BitVec.getLsbD_of_ge ctrl (k - 8) (by omega)

/-- A data byte has bit 7 clear (R50). -/
theorem groupByte_eq_append (d : Septet) : groupByte d = 0#1 ++ d := by
  revert d
  decide

@[simp] theorem groupByte_le (d : Septet) : (groupByte d).toNat ≤ 127 := by
  simp [groupByte]
  omega

/-- A data byte of the frame carries seven bits of the color (R50, R66). -/
theorem sevenBits_eq_groupByte (color : Color) (n : Nat) : sevenBits color n = groupByte (color.extractLsb' n 7) := by
  apply BitVec.eq_of_getLsbD_eq
  intro k hk
  rw [groupByte_getLsbD]
  simp only [sevenBits, BitVec.getLsbD_setWidth, BitVec.getLsbD_and, BitVec.getLsbD_ushiftRight,
    BitVec.getLsbD_extractLsb']
  interval_cases k <;> simp

/-- The frame of a color is the frame of its four groups (R66). -/
theorem encsx_eq_sysexFrame (cfg : Config) (color : Color) :
    encsx cfg color = sysexFrame cfg (color.extractLsb' 0 7) (color.extractLsb' 7 7) (color.extractLsb' 14 7)
      (color.extractLsb' 21 7) := by
  simp [encsx, sysexFrame, sevenBits_eq_groupByte]

/-- The shift and mask of CHAN are a slice (R61). -/
theorem shift_mask_eq_extractLsb' (color : Color) (n : Nat) :
    ((color >>> n) &&& 0xFF#28).setWidth 8 = color.extractLsb' n 8 := by
  apply BitVec.eq_of_getLsbD_eq
  intro k hk
  simp only [BitVec.getLsbD_setWidth, BitVec.getLsbD_and, BitVec.getLsbD_ushiftRight, BitVec.getLsbD_extractLsb']
  interval_cases k <;> simp

theorem chan_eq_extractLsb' (color : Color) :
    chan color = (color.extractLsb' 16 8, color.extractLsb' 8 8, color.extractLsb' 0 8) := by
  have hblue : (color &&& 0xFF#28).setWidth 8 = color.extractLsb' 0 8 := by
    simpa using shift_mask_eq_extractLsb' color 0
  simp only [chan, shift_mask_eq_extractLsb', hblue]

theorem nib_eq_extractLsb' (ch : Byte) : nib ch = (ch.extractLsb' 0 4, ch.extractLsb' 4 4) := by
  revert ch
  decide

/-- A nibble of a channel is a slice of the color. -/
theorem extractLsb'_channel (color : Color) (m n : Nat) (hn : n + 4 ≤ 8) :
    (color.extractLsb' m 8).extractLsb' n 4 = color.extractLsb' (m + n) 4 := by
  ext k hk
  have hlt : n + k < 8 := by omega
  simp [hlt, Nat.add_assoc]

/-- The six pairs of ENCCC in bit terms (R64). -/
theorem enccc_eq_extractLsb' (cfg : Config) (color : Color) :
    enccc cfg color =
      [(cfg.ccRLo, color.extractLsb' 16 4), (cfg.ccRHi, color.extractLsb' 20 4),
       (cfg.ccGLo, color.extractLsb' 8 4), (cfg.ccGHi, color.extractLsb' 12 4),
       (cfg.ccBLo, color.extractLsb' 0 4), (cfg.ccBHi, color.extractLsb' 4 4)] := by
  simp [enccc, chan_eq_extractLsb', nib_eq_extractLsb', extractLsb'_channel]

/-- The validator passes a byte exactly if it is at most 127 (R70). -/
theorem valid7_iff (value : Byte) : valid7 value = true ↔ value.toNat ≤ 127 := by simp [valid7]

@[simp] theorem nibbleByte_le (n : Nibble) : (nibbleByte n).toNat ≤ 127 := (valid7_iff _).mp (valid7_nibbleByte n)

/-- The validator's verdict is that bit 7 is clear (R70). -/
theorem valid7_eq_not_bit (value : Byte) : valid7 value = !value.getLsbD 7 := by
  revert value
  decide

end Sys2Proof.Machine
end

section
/-! PROOFS, 20_memory.md: the events of a row. Each is of a form the block may emit, and those of a command are paired. -/

namespace Sys2Proof.Machine

@[simp] theorem eventsOf_cccol (cfg : Config) (e : Bool) (color : Color) :
    eventsOf cfg e (.cccol color) = cccolEvents cfg color e := congrArg State.trace (cccolOp_eq_emit cfg color (blank e))

@[simp] theorem eventsOf_sxcol (cfg : Config) (e : Bool) (color : Color) :
    eventsOf cfg e (.sxcol color) = sxcolEvents cfg color e := congrArg State.trace (sxcolOp_eq_emit cfg color (blank e))

@[simp] theorem eventsOf_sel (cfg : Config) (e : Bool) (color : Color) :
    eventsOf cfg e (.sel color) = selEvents cfg color e := congrArg State.trace (selOp_eq_emit cfg color (blank e))

/-- VCC leaves a message of a value in range and its record, or one error record (R82). -/
theorem eventsOf_vcc_cases (cfg : Config) (e : Bool) (ctrl value : Byte) :
    (value.toNat ≤ 127 ∧ eventsOf cfg e (.vcc ctrl value) =
      [.midi (ccMessage cfg ctrl value), .log logCcSentCode (ctrlValue ctrl value)])
    ∨ (127 < value.toNat ∧ eventsOf cfg e (.vcc ctrl value) = [.log logCcRangeErrCode (ctrlValue ctrl value)]) := by
  obtain ⟨hv, hop⟩ | ⟨hv, hop⟩ := vccOp_cases cfg ctrl value (blank e)
  · exact .inl ⟨(valid7_iff value).mp hv, congrArg State.trace hop⟩
  · refine .inr ⟨?_, congrArg State.trace hop⟩
    rw [← Nat.not_le, ← valid7_iff, hv]
    decide

@[simp] theorem eventOk_ccMessage (cfg : Config) (ctrl value : Byte) :
    eventOk cfg (.midi (ccMessage cfg ctrl value)) = decide (value.toNat ≤ 127) := by
  simp [eventOk, messageOk, ccMessage]

@[simp] theorem eventOk_sysexFrame (cfg : Config) (d0 d1 d2 d3 : Septet) :
    eventOk cfg (.midi (sysexFrame cfg d0 d1 d2 d3)) = true := by
  simp [eventOk, messageOk, sysexFrame]

@[simp] theorem eventOk_logSelChanged (cfg : Config) : eventOk cfg (.log logSelChangedCode 0#28) = true := rfl

@[simp] theorem eventOk_logCcSent (cfg : Config) (ctrl value : Byte) :
    eventOk cfg (.log logCcSentCode (ctrlValue ctrl value)) = true := by
  simpa [eventOk, recordOk] using Or.inl (Or.inr (ctrlValue_lt ctrl value))

@[simp] theorem eventOk_logCcRangeErr (cfg : Config) (ctrl value : Byte) :
    eventOk cfg (.log logCcRangeErrCode (ctrlValue ctrl value)) = true := by
  simpa [eventOk, recordOk] using Or.inl (Or.inr (ctrlValue_lt ctrl value))

@[simp] theorem eventOk_logSxSent (cfg : Config) (color : Color) : eventOk cfg (.log logSxSentCode color) = true := by
  simp [eventOk, recordOk]

@[simp] theorem eventOk_encsx (cfg : Config) (color : Color) : eventOk cfg (.midi (encsx cfg color)) = true := by
  rw [encsx_eq_sysexFrame, eventOk_sysexFrame]

theorem cccolEvents_ok (cfg : Config) (color : Color) (e : Bool) :
    (cccolEvents cfg color e).all (eventOk cfg) = true := by
  cases e <;> simp [cccolEvents, nibbleEvents]

theorem sxcolEvents_ok (cfg : Config) (color : Color) (e : Bool) :
    (sxcolEvents cfg color e).all (eventOk cfg) = true := by
  cases e <;> simp [sxcolEvents]

/-- Every row, with any `Config`, emits only events of the forms of R42, R44 and R47. -/
theorem eventsOf_ok (cfg : Config) (e : Bool) (i : Instr) : (eventsOf cfg e i).all (eventOk cfg) = true := by
  cases i with
  | selnone | seten en | chan color | nib ch | enccc color | encsx color | valid7 value => rfl
  | sel color =>
    rw [eventsOf_sel, selEvents, List.all_append, List.all_append, cccolEvents_ok, sxcolEvents_ok]
    rfl
  | cccol color => rw [eventsOf_cccol, cccolEvents_ok]
  | sxcol color => rw [eventsOf_sxcol, sxcolEvents_ok]
  | vcc ctrl value =>
    obtain ⟨hv, hev⟩ | ⟨-, hev⟩ := eventsOf_vcc_cases cfg e ctrl value
    · simp [hev, hv]
    · simp [hev]
  | ccRLo n | ccRHi n | ccGLo n | ccGHi n | ccBLo n | ccBHi n | ccGeneric ctrl value =>
    change [Event.midi (ccMessage cfg _ _)].all (eventOk cfg) = true
    simp
  | sysexColor d0 d1 d2 d3 =>
    change [Event.midi (sysexFrame cfg d0 d1 d2 d3)].all (eventOk cfg) = true
    simp
  | logSelChanged | logCcSent ctrl value | logCcRangeErr ctrl value | logSxSent color =>
    change [Event.log _ _].all (eventOk cfg) = true
    simp

/-- The success record of a CC message gives an account of that message (R99). -/
@[simp] theorem messageOfRecord_ccSent (cfg : Config) (ctrl value : Byte) :
    messageOfRecord cfg (joinWord logCcSentCode (ctrlValue ctrl value)) = some (ccMessage cfg ctrl value) := by
  simp [messageOfRecord, logCcSentCode]

/-- The success record of a frame gives an account of that frame (R99). -/
@[simp] theorem messageOfRecord_sxSent (cfg : Config) (color : Color) :
    messageOfRecord cfg (joinWord logSxSentCode color) = some (encsx cfg color) := by
  simp [messageOfRecord, logSxSentCode]

@[simp] theorem messageOfRecord_rangeErr (cfg : Config) (payload : BitVec 28) :
    messageOfRecord cfg (joinWord logCcRangeErrCode payload) = none := by
  simp [messageOfRecord, logCcRangeErrCode]

@[simp] theorem messageOfRecord_selChanged (cfg : Config) (payload : BitVec 28) :
    messageOfRecord cfg (joinWord logSelChangedCode payload) = none := by
  simp [messageOfRecord, logSelChangedCode]

/-- A paired trace is continued by a paired one: it does not end in a message that waits for its record. -/
theorem paired_append (cfg : Config) (es es' : List Event) (h : paired cfg es = true) (h' : paired cfg es' = true) :
    paired cfg (es ++ es') = true := by
  induction es using paired.induct with
  | case1 => exact h'
  | case2 bytes code payload rest ih =>
    obtain ⟨hrec, hrest⟩ := (Bool.and_eq_true _ _).mp h
    exact (Bool.and_eq_true _ _).mpr ⟨hrec, ih hrest⟩
  | case3 bytes => cases h
  | case4 bytes bytes' rest => cases h
  | case5 code payload rest ih =>
    obtain ⟨hrec, hrest⟩ := (Bool.and_eq_true _ _).mp h
    exact (Bool.and_eq_true _ _).mpr ⟨hrec, ih hrest⟩

/-- The color messages of any pairs are paired: a nibble is in range (R65). -/
theorem paired_nibbleEvents (cfg : Config) (pairs : List (Byte × Nibble)) :
    paired cfg (pairs.flatMap (nibbleEvents cfg)) = true := by
  induction pairs with
  | nil => rfl
  | cons pair rest ih => exact paired_append cfg (nibbleEvents cfg pair) _ (by simp [nibbleEvents, paired]) ih

theorem paired_cccolEvents (cfg : Config) (color : Color) (e : Bool) : paired cfg (cccolEvents cfg color e) = true := by
  cases e with
  | false => rfl
  | true => exact paired_nibbleEvents cfg _

theorem paired_sxcolEvents (cfg : Config) (color : Color) (e : Bool) : paired cfg (sxcolEvents cfg color e) = true := by
  cases e <;> simp [sxcolEvents, paired]

theorem paired_selEvents (cfg : Config) (color : Color) (e : Bool) : paired cfg (selEvents cfg color e) = true :=
  paired_append cfg _ _ (paired_append cfg _ _ (paired_cccolEvents cfg color e) (paired_sxcolEvents cfg color e))
    (by simp [paired])

/-- A command word is read as one of the six commands (R41, R75). -/
theorem decodeCommand_eq_ok_cases (prm : Params) (w : Word) (i : Instr) (h : decodeCommand prm w = .ok i) :
    i = .selnone ∨ (∃ color, i = .sel color) ∨ (∃ en, i = .seten en) ∨ (∃ color, i = .cccol color)
    ∨ (∃ color, i = .sxcol color) ∨ ∃ ctrl value, i = .vcc ctrl value := by
  have hdirect (j : Instr) (hj : directCommand prm (topField w) j = .ok i) : i = j := by
    unfold directCommand at hj
    split at hj <;> cases hj
    rfl
  obtain ⟨-, hd⟩ | ⟨-, hd⟩ | ⟨-, hd⟩ | ⟨-, hd⟩ | ⟨-, hd⟩ | ⟨-, hd⟩ | ⟨-, hd⟩ := decodeCommand_cases prm w
  all_goals rw [hd] at h
  · exact .inl (Except.ok.inj h).symm
  · exact .inr (.inl ⟨_, (Except.ok.inj h).symm⟩)
  · exact .inr (.inr (.inl ⟨_, (Except.ok.inj h).symm⟩))
  · exact .inr (.inr (.inr (.inl ⟨_, hdirect _ h⟩)))
  · exact .inr (.inr (.inr (.inr (.inl ⟨_, hdirect _ h⟩))))
  · exact .inr (.inr (.inr (.inr (.inr ⟨_, _, hdirect _ h⟩))))
  · cases h

/-- The events of a command are paired, with any `Config` (R83). -/
theorem paired_eventsOf_of_decodeCommand (cfg : Config) (prm : Params) (e : Bool) (w : Word) (i : Instr)
    (h : decodeCommand prm w = .ok i) : paired cfg (eventsOf cfg e i) = true := by
  obtain rfl | ⟨color, rfl⟩ | ⟨en, rfl⟩ | ⟨color, rfl⟩ | ⟨color, rfl⟩ | ⟨ctrl, value, rfl⟩ :=
    decodeCommand_eq_ok_cases prm w i h
  · rfl
  · rw [eventsOf_sel]
    exact paired_selEvents cfg color e
  · rfl
  · rw [eventsOf_cccol]
    exact paired_cccolEvents cfg color e
  · rw [eventsOf_sxcol]
    exact paired_sxcolEvents cfg color e
  · obtain ⟨-, hev⟩ | ⟨-, hev⟩ := eventsOf_vcc_cases cfg e ctrl value <;> simp [hev, paired]

end Sys2Proof.Machine
end

section
/-! PROOFS, 20_memory.md: what a step that answers does, and the two invariants of the trace that every step keeps. -/

namespace Sys2Proof.Machine

/-- A step that answers completes a command in flight, runs the row on the bench, finds nothing to do, resets the block, or
runs the command at the port. -/
theorem step_cases (s s' : State) (h : step s = .next s') :
    (∃ f, s.signal.flight = some f ∧ s' = s.complete)
    ∨ (∃ u i, s.bench = some u ∧ s' = effect Config.default i { s with bench := none })
    ∨ s' = s
    ∨ (∃ rest, s' = { s with inputs := rest }.resetEdge)
    ∨ (∃ w rest i, decodeCommand Params.default w = .ok i ∧ s' = effect Config.default i { s with inputs := rest }) := by
  obtain ⟨f, hf, hx⟩ | ⟨-, u, i, hb, -, hx⟩ | ⟨-, u, e, -, -, hx⟩ | ⟨-, -, -, hx⟩ | ⟨-, -, rest, -, hx⟩
    | ⟨-, -, w, rest, i, -, hd, hx⟩ | ⟨-, -, w, rest, e, -, -, hx⟩ := fetch_cases s
  all_goals simp only [step, hx, exec_eq_next_effect, Host.Outcome.next.injEq, reduceCtorEq] at h
  · exact .inl ⟨f, hf, h.symm⟩
  · exact .inr (.inl ⟨u, i, hb, h.symm⟩)
  · exact .inr (.inr (.inl h.symm))
  · exact .inr (.inr (.inr (.inl ⟨rest, h.symm⟩)))
  · exact .inr (.inr (.inr (.inr ⟨w, rest, i, hd, h.symm⟩)))

/-- The outputs are well formed when the completed trace is: the events of the trace and those that are pending. -/
theorem outputsOk_iff (s : State) : outputsOk s = true ↔ s.complete.trace.all (eventOk Config.default) = true := by
  rw [State.complete_trace, List.all_append]
  cases h : s.signal.flight <;> simp [outputsOk, h]

/-- A row keeps the outputs well formed: it adds events of the right forms and leaves what is pending. -/
theorem outputsOk_effect (i : Instr) (s : State) (h : outputsOk s = true) :
    outputsOk (effect Config.default i s) = true := by
  rw [outputsOk, Bool.and_eq_true] at h
  obtain ⟨htrace, hflight⟩ := h
  rw [effect_eq, outputsOk, Bool.and_eq_true, List.all_append, Bool.and_eq_true]
  exact ⟨⟨htrace, eventsOf_ok Config.default s.enabled i⟩, hflight⟩

/-- A command keeps the trace paired and the machine at rest. -/
theorem pairedAtRest_effect (w : Word) (i : Instr) (s : State) (hd : decodeCommand Params.default w = .ok i)
    (h : PairedAtRest s) : PairedAtRest (effect Config.default i s) := by
  obtain ⟨hrest, hpaired⟩ := h
  rw [effect_eq]
  exact ⟨hrest, paired_append _ _ _ hpaired (paired_eventsOf_of_decodeCommand _ _ s.enabled w i hd)⟩

/-- At rest nothing is in flight, nothing waits, and the bench is empty. -/
theorem atRest_iff (s : State) :
    atRest s = true ↔ s.signal.flight = none ∧ s.signal.waiting = none ∧ s.bench = none := by
  simp [atRest, and_assoc]

end Sys2Proof.Machine
end

section
/-! PROOFS, 20_memory.md: what one cycle of presenting can do. `BeatStep` says it of the byte and `RecordStep` of the record; the
facts about the wires and about what is left are each proved of these two steps. -/

namespace Sys2Proof.Machine

/-- What the byte of a cycle does to the sequencer (R36): no byte; a byte inside the first message in flight, which may stand
behind records; or the last byte of a message that is the next event, which is then done. -/
inductive BeatStep (f : Flight) : Option Beat → Flight → Prop
  | idle : BeatStep f none f
  | inside (bytes : List Byte) (a : Byte) (hfirst : firstMessage f.events = some bytes)
      (hbyte : bytes[f.sent]? = some a) (hmore : f.sent + 1 < bytes.length) :
      BeatStep f (some ⟨a, f.sent == 0, false⟩) { f with sent := f.sent + 1 }
  | last (bytes : List Byte) (a : Byte) (rest : List Event) (hevents : f.events = .midi bytes :: rest)
      (hbyte : bytes[f.sent]? = some a) (hlast : f.sent + 1 = bytes.length) :
      BeatStep f (some ⟨a, f.sent == 0, true⟩) { f with events := rest, sent := 0 }

/-- What the record of a cycle does to the sequencer (R37): no record, or the record that is the next event. -/
inductive RecordStep (f : Flight) : Option Word → Flight → Prop
  | idle : RecordStep f none f
  | out (code : Nibble) (payload : BitVec 28) (rest : List Event) (hevents : f.events = .log code payload :: rest) :
      RecordStep f (some (joinWord code payload)) { f with events := rest }

theorem messageIsNext_iff (es : List Event) : messageIsNext es = true ↔ ∃ bytes rest, es = .midi bytes :: rest := by
  cases es with
  | nil => simp [messageIsNext]
  | cons e rest => cases e <;> simp [messageIsNext]

/-- The byte that may be presented makes a `BeatStep`. -/
theorem beatStep_nextBeat (f : Flight) : BeatStep f (nextBeat f) (f.afterBeat (nextBeat f)) := by
  cases hb : nextBeat f with
  | none => exact .idle
  | some b =>
    cases hm : firstMessage f.events with
    | none => simp [nextBeat, hm] at hb
    | some bytes =>
      cases hd : bytes.drop f.sent with
      | nil => simp [nextBeat, hm, hd] at hb
      | cons a tail =>
        have hbyte : bytes[f.sent]? = some a := by
          rw [← List.head?_drop, hd, List.head?_cons]
        have hlen : bytes.length - f.sent = tail.length + 1 := by simpa using congrArg List.length hd
        cases tail with
        | cons a' tail =>
          obtain rfl : ⟨a, f.sent == 0, false⟩ = b := by simpa [nextBeat, hm, hd] using hb
          rw [List.length_cons] at hlen
          exact .inside bytes a hm hbyte (by omega)
        | nil =>
          simp only [nextBeat, hm, hd, List.isEmpty_nil, Bool.true_and, Bool.not_eq_true', ite_eq_iff,
            reduceCtorEq, and_false, false_or, Option.some.injEq, Bool.not_eq_false, messageIsNext_iff] at hb
          obtain ⟨⟨bytes', rest, hev⟩, rfl⟩ := hb
          obtain rfl : bytes' = bytes := by simpa [hev, firstMessage] using hm
          have hdone : f.afterBeat (some ⟨a, f.sent == 0, true⟩) = { f with events := rest, sent := 0 } := by
            simp [Flight.afterBeat, hev]
          rw [List.length_nil] at hlen
          rw [hdone]
          exact .last bytes' a rest hev hbyte (by omega)

/-- The byte of a cycle, presented or not, makes a `BeatStep`. -/
theorem beatStep_chosenBeat (p : Pace) (f : Flight) : BeatStep f (chosenBeat p f) (f.afterBeat (chosenBeat p f)) := by
  obtain hc | hc := chosenBeat_cases p f <;> rw [hc]
  · exact .idle
  · exact beatStep_nextBeat f

/-- The record that may be presented makes a `RecordStep`. -/
theorem recordStep_nextRecord (f : Flight) : RecordStep f (nextRecord f) (f.afterRecord (nextRecord f)) := by
  cases hw : nextRecord f with
  | none => exact .idle
  | some w =>
    obtain ⟨code, payload, rest, hev, rfl⟩ := nextRecord_eq_some f w hw
    have hdone : f.afterRecord (some (joinWord code payload)) = { f with events := rest } := by
      simp [Flight.afterRecord, hev]
    rw [hdone]
    exact .out code payload rest hev

/-- The record of a cycle, presented or not, makes a `RecordStep` from where the byte has led. -/
theorem recordStep_chosenRecord (p : Pace) (f : Flight) :
    RecordStep (f.afterBeat (chosenBeat p f)) (chosenRecord p f) (present p f).flight := by
  change RecordStep _ _ ((f.afterBeat (chosenBeat p f)).afterRecord (chosenRecord p f))
  obtain hc | hc := chosenRecord_cases p f <;> rw [hc]
  · exact .idle
  · exact recordStep_nextRecord _

/-- After a cycle of presenting the sequencer's position is in flight, or it has no events and nothing is. -/
theorem flightAfter_cases (p : Pace) (old new : Flight) :
    flightAfter p old new = some new ∨ (new.events = [] ∧ flightAfter p old new = none) := by
  unfold flightAfter
  split_ifs <;> simp_all

/-- With a command in flight a cycle out of reset presents (R35). -/
theorem cycle_of_inFlight (i : PortsIn) (p : Pace) (f : Flight) (s : State) (hr : i.rst = false)
    (hw : withdrawn s i = false) (hf : InFlight s f) : cycle i p s = .next (busyCycle i p f s) := by
  obtain ⟨hs, hflight⟩ := hf
  simp [cycle, hw, hr, hs, hflight]

/-- With a command in flight a cycle that answers has presented. -/
theorem eq_busyCycle_of_cycle (i : PortsIn) (p : Pace) (f : Flight) (s : State) (r : State × PortsOut) (hf : InFlight s f)
    (h : cycle i p s = .next r) : r = busyCycle i p f s := by
  obtain ⟨hs, hflight⟩ := hf
  obtain ⟨-, ⟨-, hidle, -⟩ | ⟨-, hun, -⟩ | ⟨-, g, ⟨-, hg⟩, hr⟩ | ⟨-, ⟨-, hidle⟩, -⟩⟩ := cycle_cases i p s r h
  · simp [hidle hs] at hflight
  · simp [hs] at hun
  · obtain rfl : f = g := Option.some.inj (hflight.symm.trans hg)
    exact hr
  · simp [hidle] at hflight

/-- Out of reset and with nothing in flight a cycle is idle (R35). -/
theorem cycle_of_ready (i : PortsIn) (p : Pace) (s : State) (hr : i.rst = false) (hw : withdrawn s i = false)
    (hready : Ready s) : cycle i p s = idleCycle i p s := by
  obtain ⟨hs, hf⟩ := hready
  simp [cycle, hw, hr, hs, hf]

/-- An idle cycle with a command presented accepts it (R35). -/
theorem idleCycle_of_blockStep (i : PortsIn) (p : Pace) (s : State) (e : Bool) (es : List Event) (hv : i.cmdValid = true)
    (h : blockStep Config.default Params.default s.enabled i.cmd = some (e, es)) :
    idleCycle i p s =
      .next ((s.setEnabled e).signalNext (flightOf p i.cmd es) (waitingAfter i true), wires s none none) := by
  simp [idleCycle, hv, h]

/-- An idle cycle with no command presented waits (R102). -/
theorem idleCycle_of_silent (i : PortsIn) (p : Pace) (s : State) (hv : i.cmdValid = false) :
    idleCycle i p s = .next (s.signalNext none (waitingAfter i false), wires s none none) := by
  simp [idleCycle, hv]

/-- A cycle of presenting leaves the trace that the command will have given (R30). -/
theorem busyCycle_complete_trace (i : PortsIn) (p : Pace) (f : Flight) (s : State) (hf : s.signal.flight = some f) :
    (busyCycle i p f s).1.complete.trace = s.complete.trace := by
  simp [State.complete_trace, busyCycle, hf, ← completed_append_present p f, List.append_assoc]

end Sys2Proof.Machine
end

section
/-! PROOFS, 20_memory.md: the wires. What the rule of R32 recovers from one cycle is what the cycle adds to the trace. -/

namespace Sys2Proof.Machine

/-- The bytes already out of the first message in flight. -/
def Flight.part (f : Flight) : List Byte := ((firstMessage f.events).getD []).take f.sent

/-- The bytes that the recovery rule holds after a cycle (R32). -/
def stillCollected (partly : List Byte) (o : PortsOut) : List Byte :=
  if o.midiValid && o.midiEop then [] else collect partly o

/-- The recovery rule on a cycle out of reset (R32). -/
theorem recover_cons (partly : List Byte) (i : PortsIn) (o : PortsOut) (rest : List Sample) (hr : i.rst = false) :
    recover partly (⟨i, o⟩ :: rest) = recoverOne partly o ++ recover (stillCollected partly o) rest := by
  simp [recover, stillCollected, hr]

theorem partMessage_of_flight (s : State) (f : Flight) (hf : s.signal.flight = some f) : partMessage s = f.part := by
  cases h : firstMessage f.events <;> simp [partMessage, Flight.part, hf, h]

theorem partMessage_of_none (s : State) (hf : s.signal.flight = none) : partMessage s = [] := by
  simp [partMessage, hf]

/-- After a cycle of presenting the bytes out are those of the sequencer's position, held or done. -/
theorem partMessage_of_flightAfter (s : State) (p : Pace) (old new : Flight)
    (hf : s.signal.flight = flightAfter p old new) : partMessage s = new.part := by
  obtain h | ⟨hnil, h⟩ := flightAfter_cases p old new
  · exact partMessage_of_flight s new (hf.trans h)
  · rw [partMessage_of_none s (hf.trans h)]
    simp [Flight.part, hnil, firstMessage]

/-- Before the first byte of a message no byte is out. -/
theorem Flight.part_of_sent_eq_zero (f : Flight) (h : f.sent = 0) : f.part = [] := by simp [Flight.part, h]

/-- After an acceptance no byte of the command is out. -/
theorem partMessage_of_flightOf (s : State) (p : Pace) (w : Word) (es : List Event)
    (hf : s.signal.flight = flightOf p w es) : partMessage s = [] := by
  cases h : flightOf p w es with
  | none => exact partMessage_of_none s (hf.trans h)
  | some f =>
    obtain rfl := flightOf_eq_some p w es f h
    rw [partMessage_of_flight s _ (hf.trans h), Flight.part_of_sent_eq_zero _ rfl]

/-- A message and a record in one cycle are recovered in this order (R32). -/
theorem recoverOne_wires (partly : List Byte) (s : State) (midi : Option Beat) (record : Option Word) :
    recoverOne partly (wires s midi record) =
      recoverOne partly (wires s midi none) ++ recoverOne partly (wires s none record) := by
  have hsplit (message record : List Event) : message ++ record = (message ++ []) ++ ([] ++ record) := by simp
  exact hsplit _ _

@[simp] theorem recoverOne_silent (partly : List Byte) (s : State) : recoverOne partly (wires s none none) = [] := rfl

@[simp] theorem stillCollected_without_byte (partly : List Byte) (s : State) (record : Option Word) :
    stillCollected partly (wires s none record) = partly := rfl

/-- With the next byte of the message collected, the bytes collected are one more of its bytes. -/
theorem collect_nextByte (f : Flight) (bytes : List Byte) (a : Byte) (eop : Bool) (s : State) (record : Option Word)
    (hfirst : firstMessage f.events = some bytes) (hbyte : bytes[f.sent]? = some a) :
    collect f.part (wires s (some ⟨a, f.sent == 0, eop⟩) record) = bytes.take (f.sent + 1) := by
  have htake : bytes.take (f.sent + 1) = bytes.take f.sent ++ [a] := by rw [List.take_add_one, hbyte, Option.toList_some]
  rw [htake]
  by_cases hs : f.sent = 0
  · simp [collect, wires, hs]
  · simp [collect, wires, hs, Flight.part, hfirst]

/-- The message recovered from a byte and the events left after it are the events before it. -/
theorem BeatStep.recovers {f f' : Flight} {midi : Option Beat} (h : BeatStep f midi f') (s : State) :
    recoverOne f.part (wires s midi none) ++ f'.events = f.events := by
  cases h with
  | idle => rfl
  | inside bytes a hfirst hbyte hmore => rfl
  | last bytes a rest hevents hbyte hlast =>
    have hfirst : firstMessage f.events = some bytes := by rw [hevents, firstMessage]
    have hwhole := collect_nextByte f bytes a true s none hfirst hbyte
    rw [hlast, List.take_length] at hwhole
    rw [hevents, ← hwhole]
    rfl

/-- The bytes held after a byte are those of the position that the byte leads to. -/
theorem BeatStep.stillCollected_eq {f f' : Flight} {midi : Option Beat} (h : BeatStep f midi f') (s : State)
    (record : Option Word) : stillCollected f.part (wires s midi record) = f'.part := by
  cases h with
  | idle => exact stillCollected_without_byte f.part s record
  | inside bytes a hfirst hbyte hmore =>
    calc stillCollected f.part (wires s (some ⟨a, f.sent == 0, false⟩) record)
        = collect f.part (wires s (some ⟨a, f.sent == 0, false⟩) record) := rfl
      _ = bytes.take (f.sent + 1) := collect_nextByte f bytes a false s record hfirst hbyte
      _ = Flight.part { f with sent := f.sent + 1 } := by simp [Flight.part, hfirst]
  | last bytes a rest hevents hbyte hlast => exact (Flight.part_of_sent_eq_zero _ rfl).symm

/-- The record recovered and the events left after it are the events before it. -/
theorem RecordStep.recovers {f f' : Flight} {record : Option Word} (h : RecordStep f record f') (partly : List Byte)
    (s : State) : recoverOne partly (wires s none record) ++ f'.events = f.events := by
  cases h with
  | idle => rfl
  | out code payload rest hevents => simp [recoverOne, wires, hevents]

/-- A record leaves the bytes that are out of the first message. -/
theorem RecordStep.part_eq {f f' : Flight} {record : Option Word} (h : RecordStep f record f') : f'.part = f.part := by
  cases h with
  | idle => rfl
  | out code payload rest hevents => simp [Flight.part, hevents, firstMessage]

/-- What is recovered from a cycle of presenting is what the cycle completes: both, followed by the events left, are the
events there were. -/
theorem recoverOne_present (p : Pace) (f : Flight) (s : State) :
    recoverOne f.part (wires s (present p f).midi (present p f).record) = completed f (present p f).flight := by
  refine List.append_cancel_right (bs := (present p f).flight.events) ?_
  calc recoverOne f.part (wires s (chosenBeat p f) (chosenRecord p f)) ++ (present p f).flight.events
      = recoverOne f.part (wires s (chosenBeat p f) none) ++ (f.afterBeat (chosenBeat p f)).events := by
        rw [recoverOne_wires, List.append_assoc, (recordStep_chosenRecord p f).recovers]
    _ = f.events := (beatStep_chosenBeat p f).recovers s
    _ = completed f (present p f).flight ++ (present p f).flight.events := (completed_append_present p f).symm

theorem stillCollected_present (p : Pace) (f : Flight) (s : State) :
    stillCollected f.part (wires s (present p f).midi (present p f).record) = (present p f).flight.part := by
  rw [(recordStep_chosenRecord p f).part_eq]
  exact (beatStep_chosenBeat p f).stillCollected_eq s (chosenRecord p f)

/-- The wires of a cycle tell what the cycle adds to the trace, and how far the message that is going out has come. -/
def WiresTell (s s' : State) (o : PortsOut) : Prop :=
  s'.trace = s.trace ++ recoverOne (partMessage s) o ∧ stillCollected (partMessage s) o = partMessage s'

theorem busyCycle_wiresTell (i : PortsIn) (p : Pace) (f : Flight) (s : State) (hf : s.signal.flight = some f) :
    WiresTell s (busyCycle i p f s).1 (busyCycle i p f s).2 := by
  rw [WiresTell, partMessage_of_flight s f hf, partMessage_of_flightAfter (busyCycle i p f s).1 p f _ rfl]
  exact ⟨congrArg (s.trace ++ ·) (recoverOne_present p f s).symm, stillCollected_present p f s⟩

theorem idleCycle_wiresTell (i : PortsIn) (p : Pace) (s s' : State) (o : PortsOut) (hf : s.signal.flight = none)
    (h : idleCycle i p s = .next (s', o)) : WiresTell s s' o := by
  obtain ⟨rfl, ⟨-, rfl⟩ | ⟨-, e, es, -, rfl⟩⟩ := idleCycle_cases i p s s' o h
  all_goals rw [WiresTell, partMessage_of_none s hf]
  · exact ⟨by simp, (partMessage_of_none _ rfl).symm⟩
  · rw [partMessage_of_flightOf _ p i.cmd es rfl]
    simp

/-- THE STEP OF THE RECOVERY: the wires of a cycle without reset tell it. -/
theorem cycle_wiresTell (i : PortsIn) (p : Pace) (s s' : State) (o : PortsOut) (hs : s.signal.settled = true)
    (hr : i.rst = false) (h : cycle i p s = .next (s', o)) : WiresTell s s' o := by
  obtain ⟨-, ⟨hrst, -⟩ | ⟨-, hun, -⟩ | ⟨-, f, ⟨-, hf⟩, hbusy⟩ | ⟨-, ⟨-, hf⟩, hidle⟩⟩ := cycle_cases i p s (s', o) h
  · simp [hr] at hrst
  · simp [hs] at hun
  · obtain ⟨rfl, rfl⟩ := Prod.mk.inj hbusy
    exact busyCycle_wiresTell i p f s hf
  · exact idleCycle_wiresTell i p s s' o hf hidle

/-- The wires of a run of cycles without reset tell what the run adds to the trace (R32). -/
theorem runCycles_trace (drive : List (PortsIn × Pace)) (s s' : State) (samples : List Sample)
    (hs : s.signal.settled = true) (hr : ∀ x ∈ drive, x.1.rst = false)
    (h : runCycles drive s = .next (s', samples)) : s'.trace = s.trace ++ recover (partMessage s) samples := by
  induction drive generalizing s samples with
  | nil =>
    obtain ⟨rfl, rfl⟩ := Prod.mk.inj (Host.Outcome.next.inj h)
    simp [recover]
  | cons x rest ih =>
    obtain ⟨i, p⟩ := x
    obtain ⟨hi, hrest⟩ := List.forall_mem_cons.mp hr
    obtain ⟨s1, o, samples', hc, hrun, rfl⟩ := runCycles_cons_next i p rest s s' samples h
    obtain ⟨htrace, hpart⟩ := cycle_wiresTell i p s s1 o hs hi hc
    rw [ih s1 samples' (cycle_settled i p s s1 o hs hi hc) hrest hrun, htrace, recover_cons _ i o _ hi, hpart,
      List.append_assoc]

/-- A byte on the wires is the next one of the first message in flight, `sop` marks the first and `eop` the last (R36). -/
theorem BeatStep.wires_eq {f f' : Flight} {midi : Option Beat} (h : BeatStep f midi f') (s : State)
    (record : Option Word) (hv : (wires s midi record).midiValid = true) :
    ∃ bytes : List Byte, firstMessage f.events = some bytes
      ∧ bytes[f.sent]? = some (wires s midi record).midiData
      ∧ (wires s midi record).midiSop = decide (f.sent = 0)
      ∧ (wires s midi record).midiEop = decide (f.sent + 1 = bytes.length) := by
  cases h with
  | idle => cases hv
  | inside bytes a hfirst hbyte hmore => exact ⟨bytes, hfirst, hbyte, rfl, by simp [wires, hmore.ne]⟩
  | last bytes a rest hevents hbyte hlast =>
    exact ⟨bytes, by rw [hevents, firstMessage], hbyte, rfl, by simp [wires, hlast]⟩

@[simp] theorem logRecords_cons_midi (bytes : List Byte) (es : List Event) :
    logRecords (.midi bytes :: es) = logRecords es := rfl

@[simp] theorem logRecords_cons_log (code : Nibble) (payload : BitVec 28) (es : List Event) :
    logRecords (.log code payload :: es) = joinWord code payload :: logRecords es := rfl

/-- A byte leaves the records in flight. -/
theorem BeatStep.logRecords_eq {f f' : Flight} {midi : Option Beat} (h : BeatStep f midi f') :
    logRecords f.events = logRecords f'.events := by
  cases h with
  | idle => rfl
  | inside bytes a hfirst hbyte hmore => rfl
  | last bytes a rest hevents hbyte hlast => simp [hevents]

/-- A record that goes out is the first of the records in flight (R37). -/
theorem RecordStep.logRecords_eq {f f' : Flight} {record : Option Word} (h : RecordStep f record f') :
    logRecords f.events = record.toList ++ logRecords f'.events := by
  cases h with
  | idle => rfl
  | out code payload rest hevents => simp [hevents]

/-- The records in flight are the one that a cycle presents, if it does, and those that are left. -/
theorem logRecords_present (p : Pace) (f : Flight) :
    logRecords f.events = (present p f).record.toList ++ logRecords (present p f).flight.events :=
  (beatStep_chosenBeat p f).logRecords_eq.trans (recordStep_chosenRecord p f).logRecords_eq

end Sys2Proof.Machine
end

section
/-! PROOFS, 20_memory.md: what is left of a command in flight, how a cycle takes from it, and that it comes to an end. -/

namespace Sys2Proof.Machine

@[simp] theorem bytesOf_nil : bytesOf [] = 0 := rfl

@[simp] theorem bytesOf_cons_midi (bytes : List Byte) (es : List Event) :
    bytesOf (.midi bytes :: es) = bytes.length + bytesOf es := List.length_append

@[simp] theorem bytesOf_cons_log (code : Nibble) (payload : BitVec 28) (es : List Event) :
    bytesOf (.log code payload :: es) = bytesOf es := rfl

@[simp] theorem bytesOf_append (es es' : List Event) : bytesOf (es ++ es') = bytesOf es + bytesOf es' := by
  simp [bytesOf, midiStream, messages]

/-- The first message is among the bytes to be presented. -/
theorem length_le_bytesOf (es : List Event) (bytes : List Byte) (h : firstMessage es = some bytes) :
    bytes.length ≤ bytesOf es := by
  induction es with
  | nil => simp [firstMessage] at h
  | cons e rest ih =>
    cases e with
    | midi b =>
      obtain rfl : b = bytes := by simpa [firstMessage] using h
      simp
    | log code payload => simpa using ih h

/-- The bytes of a flight that are still to be presented. -/
def Flight.bytesLeft (f : Flight) : Nat := bytesOf f.events - f.sent

theorem bytesLeft_of_flight (s : State) (f : Flight) (hf : s.signal.flight = some f) : bytesLeft s = f.bytesLeft := by
  simp [Machine.bytesLeft, Flight.bytesLeft, hf]

/-- After a cycle of presenting the bytes left are those of the sequencer's position, held or done. -/
theorem bytesLeft_of_flightAfter (s : State) (p : Pace) (old new : Flight)
    (hf : s.signal.flight = flightAfter p old new) : bytesLeft s = new.bytesLeft := by
  obtain h | ⟨hnil, h⟩ := flightAfter_cases p old new
  · exact bytesLeft_of_flight s new (hf.trans h)
  · simp [Machine.bytesLeft, Flight.bytesLeft, hf, h, hnil]

/-- The records left are those of the pending events. -/
theorem recordsLeft_eq (s : State) : recordsLeft s = (logRecords (pendingEvents s.signal.flight)).length := by
  cases hf : s.signal.flight <;> simp [recordsLeft, hf, logRecords]

/-- A byte goes out of the bytes left. -/
theorem BeatStep.bytesLeft_eq {f f' : Flight} {midi : Option Beat} (h : BeatStep f midi f') :
    f.bytesLeft = f'.bytesLeft + (if midi.isSome then 1 else 0) := by
  cases h with
  | idle => rfl
  | inside bytes a hfirst hbyte hmore =>
    have hle := length_le_bytesOf f.events bytes hfirst
    simp only [Flight.bytesLeft, Option.isSome_some, if_true]
    omega
  | last bytes a rest hevents hbyte hlast =>
    simp only [Flight.bytesLeft, hevents, bytesOf_cons_midi, Option.isSome_some, if_true]
    omega

/-- A record leaves the bytes left. -/
theorem RecordStep.bytesLeft_eq {f f' : Flight} {record : Option Word} (h : RecordStep f record f') :
    f.bytesLeft = f'.bytesLeft := by
  cases h with
  | idle => rfl
  | out code payload rest hevents => simp [Flight.bytesLeft, hevents]

/-- A cycle of presenting takes from the bytes left the one it presents, if it does (R115). -/
theorem busyCycle_bytesLeft (i : PortsIn) (p : Pace) (f : Flight) (s : State) (hf : s.signal.flight = some f) :
    bytesLeft s = bytesLeft (busyCycle i p f s).1 + (if (present p f).midi.isSome then 1 else 0) := by
  rw [bytesLeft_of_flight s f hf, bytesLeft_of_flightAfter (busyCycle i p f s).1 p f _ rfl,
    (beatStep_chosenBeat p f).bytesLeft_eq, (recordStep_chosenRecord p f).bytesLeft_eq]
  rfl

/-- A cycle of presenting takes from the records left the one it presents, if it does (R115). -/
theorem busyCycle_recordsLeft (i : PortsIn) (p : Pace) (f : Flight) (s : State) (hf : s.signal.flight = some f) :
    recordsLeft s = recordsLeft (busyCycle i p f s).1 + (if (present p f).record.isSome then 1 else 0) := by
  rw [recordsLeft_eq, recordsLeft_eq, hf, pendingEvents_some, logRecords_present p f, List.length_append, Nat.add_comm]
  cases (present p f).record <;> simp [busyCycle]

/-- A message that is the next event has a next byte, at a position the sequencer can be in. -/
theorem nextBeat_isSome_of_midi (f : Flight) (bytes : List Byte) (rest : List Event) (hok : f.ok = true)
    (hev : f.events = .midi bytes :: rest) : (nextBeat f).isSome = true := by
  have hfirst : firstMessage f.events = some bytes := by rw [hev, firstMessage]
  obtain ⟨-, -, hlt⟩ := f.ok_iff.mp hok
  have hnext : messageIsNext f.events = true := by rw [hev, messageIsNext]
  cases hd : bytes.drop f.sent with
  | nil =>
    have hle : bytes.length ≤ f.sent := List.drop_eq_nil_iff.mp hd
    exact absurd (hlt bytes hfirst) hle.not_gt
  | cons a tail => simp [nextBeat, hfirst, hd, hnext]

/-- A record that is the next event is a next record, when no byte goes before it. -/
theorem nextRecord_isSome_of_log (f : Flight) (code : Nibble) (payload : BitVec 28) (rest : List Event)
    (hev : f.events = .log code payload :: rest) : (nextRecord f).isSome = true := by
  simp [nextRecord, hev]

/-- At the fastest pace a cycle with events in flight presents a byte or a record: nothing waits for ever (R114 a). -/
theorem present_fullPace_progress (f : Flight) (hok : f.ok = true) (hne : f.events ≠ []) :
    (present fullPace f).midi.isSome = true ∨ (present fullPace f).record.isSome = true := by
  change (nextBeat f).isSome = true ∨ (nextRecord (f.afterBeat (nextBeat f))).isSome = true
  cases hev : f.events with
  | nil => exact absurd hev hne
  | cons e rest =>
    cases e with
    | midi bytes => exact .inl (nextBeat_isSome_of_midi f bytes rest hok hev)
    | log code payload =>
      cases hb : nextBeat f with
      | some b => exact .inl rfl
      | none => exact .inr (nextRecord_isSome_of_log f code payload rest hev)

/-- At the fastest pace nothing is in flight after a cycle of presenting, or less is left than before. -/
theorem busyCycle_fullPace_progress (i : PortsIn) (f : Flight) (s : State) (hok : f.ok = true)
    (hf : s.signal.flight = some f) :
    (busyCycle i fullPace f s).1.signal.flight = none
    ∨ bytesLeft (busyCycle i fullPace f s).1 + recordsLeft (busyCycle i fullPace f s).1 < bytesLeft s + recordsLeft s := by
  by_cases hne : f.events = []
  · left
    obtain ⟨k, hk⟩ := present_events fullPace f
    have hnew : (present fullPace f).flight.events = [] := by rw [hk, hne, List.drop_nil]
    change flightAfter fullPace f (present fullPace f).flight = none
    rw [flightAfter, hnew, hne]
    rfl
  · right
    rw [busyCycle_bytesLeft i fullPace f s hf, busyCycle_recordsLeft i fullPace f s hf]
    obtain h | h := present_fullPace_progress f hok hne
    all_goals
      rw [if_pos h]
      omega

/-- A run of cycles that follows a cycle. -/
theorem runCycles_cons_of_next (i : PortsIn) (p : Pace) (rest : List (PortsIn × Pace)) (s s1 s' : State) (o : PortsOut)
    (samples : List Sample) (hc : cycle i p s = .next (s1, o)) (hr : runCycles rest s1 = .next (s', samples)) :
    runCycles ((i, p) :: rest) s = .next (s', ⟨i, o⟩ :: samples) := by
  simp [runCycles, hc, hr]

/-- Some number of cycles up to a bound, at the fastest pace under a quiet host, leaves nothing in flight and the completed
trace. -/
def CompletesWithin (bound : Nat) (s : State) : Prop :=
  ∃ (n : Nat) (s' : State) (samples : List Sample), n ≤ bound
    ∧ runCycles (List.replicate n (quiet, fullPace)) s = .next (s', samples)
    ∧ s'.signal.flight = none ∧ s'.trace = s.complete.trace

/-- With nothing in flight no cycle is needed. -/
theorem CompletesWithin.of_none {s : State} (bound : Nat) (hf : s.signal.flight = none) : CompletesWithin bound s :=
  ⟨0, s, [], bound.zero_le, rfl, hf, by rw [s.complete_none hf]⟩

/-- One cycle that leaves the completed trace as it is goes before. -/
theorem CompletesWithin.succ {bound : Nat} {s s1 : State} {o : PortsOut} (hc : cycle quiet fullPace s = .next (s1, o))
    (htrace : s1.complete.trace = s.complete.trace) (h : CompletesWithin bound s1) : CompletesWithin (bound + 1) s := by
  obtain ⟨n, s', samples, hn, hrun, hf, htrace'⟩ := h
  exact ⟨n + 1, s', _, Nat.succ_le_succ hn, runCycles_cons_of_next quiet fullPace _ s s1 s' o samples hc hrun, hf,
    htrace'.trans htrace⟩

/-- A command in flight completes within a bound above its bytes and records left, by induction on the bound: at the fastest
pace each cycle but the last takes a byte or a record. -/
theorem completesWithin_of_left_lt (bound : Nat) (s : State) (hlt : bytesLeft s + recordsLeft s < bound)
    (hs : s.signal.settled = true) (hok : s.flightOk = true) (hw : s.signal.waiting = none) :
    CompletesWithin bound s := by
  induction bound generalizing s with
  | zero => omega
  | succ k ih =>
    cases hf : s.signal.flight with
    | none => exact .of_none _ hf
    | some f =>
      have hc := cycle_of_inFlight quiet fullPace f s rfl (by simp [withdrawn, hw]) ⟨hs, hf⟩
      refine .succ hc (busyCycle_complete_trace quiet fullPace f s hf) ?_
      obtain hdone | hless := busyCycle_fullPace_progress quiet f s (s.flightOk_iff.mp hok f hf) hf
      · exact .of_none k hdone
      · exact ih (busyCycle quiet fullPace f s).1 (by omega) hs ((busyCycle_keepsPosition quiet fullPace f s hf).left hok)
          rfl

/-- Each color message has three bytes. -/
theorem bytesOf_nibbleEvents (cfg : Config) (pairs : List (Byte × Nibble)) :
    bytesOf (pairs.flatMap (nibbleEvents cfg)) = 3 * pairs.length := by
  induction pairs with
  | nil => rfl
  | cons pair rest ih =>
    simp [nibbleEvents, ccMessage, ih]
    omega

/-- An enabled CCCOL sends six messages of three bytes (R115). -/
theorem bytesOf_cccolEvents (cfg : Config) (color : Color) : bytesOf (cccolEvents cfg color true) = 18 :=
  bytesOf_nibbleEvents cfg (enccc cfg color)

/-- An enabled SXCOL sends one frame of eight bytes (R115). -/
theorem bytesOf_sxcolEvents (cfg : Config) (color : Color) : bytesOf (sxcolEvents cfg color true) = 8 := rfl

/-- An enabled SEL sends the bytes of both formats (R115). -/
theorem bytesOf_selEvents (cfg : Config) (color : Color) : bytesOf (selEvents cfg color true) = 26 := by
  simp [selEvents, bytesOf_cccolEvents, bytesOf_sxcolEvents]

end Sys2Proof.Machine
end

section
/-! PROOFS, 20_memory.md: the statements of the family, each assembled from the facts above. -/

namespace Sys2Proof.Machine

/-- Settles O46: a completion appends what was pending, a row emits only well-formed events, a reset leaves none. -/
theorem outputsStayWellFormed : Obligations.OutputsStayWellFormed := by
  intro s s' hok h
  obtain ⟨f, hf, rfl⟩ | ⟨u, i, -, rfl⟩ | rfl | ⟨rest, rfl⟩ | ⟨w, rest, i, -, rfl⟩ := step_cases s s' h
  · rw [outputsOk_iff] at hok ⊢
    rwa [State.complete_none s.complete (by rw [s.complete_some f hf])]
  · exact outputsOk_effect i { s with bench := none } hok
  · exact hok
  · rfl
  · exact outputsOk_effect i { s with inputs := rest } hok

/-- Settles O47: at rest a step runs a command, whose events are paired, resets the block, or does nothing. -/
theorem traceStaysPaired : Obligations.TraceStaysPaired := by
  intro s s' hpaired h
  obtain ⟨hflight, -, hbench⟩ := (atRest_iff s).mp hpaired.left
  obtain ⟨f, hf, -⟩ | ⟨u, i, hu, -⟩ | rfl | ⟨rest, rfl⟩ | ⟨w, rest, i, hd, rfl⟩ := step_cases s s' h
  · simp [hflight] at hf
  · simp [hbench] at hu
  · exact hpaired
  · exact ⟨rfl, rfl⟩
  · exact pairedAtRest_effect w i { s with inputs := rest } hd hpaired

/-- Settles O39: the SETEN word is decoded as SETEN, which emits nothing and leaves the flag it gives. -/
theorem setenTakesEffectForTheNextCommand : Obligations.SetenTakesEffectForTheNextCommand := by
  intro cfg prm e en x w
  have hstep : blockStep cfg prm e (0x2#4 ++ x ++ BitVec.ofBool en) = some (en, []) := by
    rw [blockStep_of_ok cfg prm e _ _ (decodeCommand_seten prm x en), enabledAfter_seten, eventsOf_seten]
  cases hw : blockStep cfg prm en w <;> simp [blockRun, hstep, hw]

/-- Settles O26: a pure operation drives its ports alone, and the packers' shifts and masks are slices. -/
theorem pureOperationsDriveTheirPorts : Obligations.PureOperationsDriveTheirPorts := by
  intro color ch value s
  refine ⟨?_, ?_, ?_, ?_, ?_⟩
  · rw [exec_eq_next_effect, effect, chanResult, chan_eq_extractLsb', State.drive_eq]
  · rw [exec_eq_next_effect, effect, nib_eq_extractLsb', State.drive_eq]
  · rw [exec_eq_next_effect, effect, enccc_eq_extractLsb', State.drive_eq]
    rfl
  · rw [exec_eq_next_effect, effect, encsx_eq_sysexFrame, State.drive_eq]
    simp only [sysexFrame, groupByte_eq_append]
    rfl
  · rw [exec_eq_next_effect, effect, valid7_eq_not_bit, State.drive_eq]

/-- Settles O54: a run by induction on its cycles, and the wires of one cycle from what its byte and its record can be. -/
theorem wiresTellTheTrace : Obligations.WiresTellTheTrace := by
  refine ⟨runCycles_trace, fun i p f s s' o hf h => ?_⟩
  obtain ⟨rfl, rfl⟩ := Prod.mk.inj (eq_busyCycle_of_cycle i p f s (s', o) hf h)
  refine ⟨(beatStep_chosenBeat p f).wires_eq s (chosenRecord p f), fun hv => ?_⟩
  obtain ⟨w, hw⟩ := Option.isSome_iff_exists.mp (show (present p f).record.isSome = true from hv)
  rw [logRecords_present p f, hw]
  rfl

/-- Settles O52: the cycle is one of presenting, and what it completes goes from the events in flight to the trace. -/
theorem busyCycleOnlyPresents : Obligations.BusyCycleOnlyPresents := by
  intro i p f s s' o hf h
  obtain ⟨rfl, rfl⟩ := Prod.mk.inj (eq_busyCycle_of_cycle i p f s (s', o) hf h)
  obtain ⟨-, hflight⟩ := hf
  have hready : (busyCycle i p f s).2.cmdReady = false := by simp [busyCycle, wires, State.cmdReady, hflight]
  exact ⟨hready, rfl, waitingAfter_false i, rfl, rfl, busyCycle_complete_trace i p f s hflight⟩

/-- Settles O56: the bound is what is left, and the induction is on it. -/
theorem commandInFlightCompletes : Obligations.CommandInFlightCompletes :=
  fun s hs hok hw => completesWithin_of_left_lt _ s (Nat.lt_succ_self _) hs hok hw

/-- Settles O57: the account of one cycle, and the bytes of each command's messages. -/
theorem bytesLeaveOneACycle : Obligations.BytesLeaveOneACycle := by
  constructor
  · intro i p f s s' o hf _ h
    obtain ⟨rfl, rfl⟩ := Prod.mk.inj (eq_busyCycle_of_cycle i p f s (s', o) hf h)
    obtain ⟨-, hflight⟩ := hf
    rw [busyCycle_bytesLeft i p f s hflight, busyCycle_recordsLeft i p f s hflight]
    exact ⟨rfl, rfl⟩
  · intro cfg color ctrl value
    rw [eventsOf_sel, eventsOf_cccol, eventsOf_sxcol]
    refine ⟨bytesOf_selEvents cfg color, bytesOf_cccolEvents cfg color, bytesOf_sxcolEvents cfg color, fun hv => ?_⟩
    obtain ⟨-, hev⟩ | ⟨hlt, -⟩ := eventsOf_vcc_cases cfg true ctrl value
    · rw [hev]
      rfl
    · omega

/-- Settles O51: both kinds of idle cycle answer with the silent wires. -/
theorem commandIsAcceptedWhenReady : Obligations.CommandIsAcceptedWhenReady := by
  constructor
  · intro i p s e es hr hv hw hready hstep
    obtain ⟨hs, hf⟩ := hready
    refine ⟨wires s none none, ?_, by simp [wires, State.cmdReady, hf], rfl, rfl, rfl⟩
    rw [cycle_of_ready i p s hr hw ⟨hs, hf⟩, idleCycle_of_blockStep i p s e es hv hstep]
    simp [State.signalNext, State.setEnabled, waitingAfter, flightOf, hs]
  · intro i p s hr hv hw hready
    obtain ⟨hs, hf⟩ := hready
    refine ⟨wires s none none, ?_, by simp [wires, State.cmdReady, hf], rfl, rfl, rfl⟩
    rw [cycle_of_ready i p s hr hw ⟨hs, hf⟩, idleCycle_of_silent i p s hv]
    simp [State.signalNext, hs, hv]

end Sys2Proof.Machine
end

section
/-! PROOFS, 30_encoding.md: the command words. The opcode map by the bits of a word, and the words whose ignored bits are any. -/

namespace Sys2Proof.Machine

/-- The reserved opcodes are those of the words from 0x60000000 on (R51). -/
theorem six_le_topField (w : Word) (hw : 0x60000000 ≤ w.toNat) : 6 ≤ (topField w).toNat := by
  have hlt := w.isLt
  rw [topField, BitVec.extractLsb'_toNat, Nat.shiftRight_eq_div_pow]
  omega

/-- A reserved opcode is refused by its name, whatever the parameters are (R51). -/
theorem decodeCommand_reserved (prm : Params) (w : Word) (hw : 6 ≤ (topField w).toNat) :
    decodeCommand prm w = .error (.reservedOpcode (topField w)) := by
  obtain ⟨hop, -⟩ | ⟨hop, -⟩ | ⟨hop, -⟩ | ⟨hop, -⟩ | ⟨hop, -⟩ | ⟨hop, -⟩ | ⟨-, hd⟩ := decodeCommand_cases prm w
  case inr.inr.inr.inr.inr.inr => exact hd
  all_goals omega

/-- An accepting cycle on a word without a spec step is refused for its opcode (R51; log 19). -/
theorem idleCycle_of_blockStep_none (i : PortsIn) (p : Pace) (s : State) (hv : i.cmdValid = true)
    (h : blockStep Config.default Params.default s.enabled i.cmd = none) :
    idleCycle i p s = .refused (.reservedOpcode (topField i.cmd)) := by
  simp [idleCycle, hv, h]

/-- SELNONE has no operand: all its 28 bits are ignored (R52). -/
@[simp] theorem decode_selnone_word (arg : BitVec 28) : decode (.command (joinWord 0x0#4 arg)) = .ok .selnone := by
  simp [decode, decodeCommand]

/-- SEL takes all 28 operand bits (R40). -/
@[simp] theorem decode_sel_word (color : Color) : decode (.command (joinWord 0x1#4 color)) = .ok (.sel color) := by
  simp [decode, decodeCommand]

/-- CCCOL takes all 28 operand bits (R40). -/
@[simp] theorem decode_cccol_word (color : Color) : decode (.command (joinWord 0x3#4 color)) = .ok (.cccol color) := by
  simp [decode, decodeCommand]

/-- SXCOL takes all 28 operand bits (R40). -/
@[simp] theorem decode_sxcol_word (color : Color) : decode (.command (joinWord 0x4#4 color)) = .ok (.sxcol color) := by
  simp [decode, decodeCommand]

/-- SETEN takes bit 0 (R40). -/
@[simp] theorem decode_seten_word (en : Bool) :
    decode (.command (joinWord 0x2#4 ((BitVec.ofBool en).setWidth 28))) = .ok (.seten en) := by
  have hword : joinWord 0x2#4 ((BitVec.ofBool en).setWidth 28) = 0x2#4 ++ 0#27 ++ BitVec.ofBool en := by
    cases en <;> rfl
  rw [hword]
  exact decodeCommand_seten Params.default 0#27 en

/-- VCC takes two bytes (R40). -/
@[simp] theorem decode_vcc_word (ctrl value : Byte) :
    decode (.command (joinWord 0x5#4 (ctrlValue ctrl value))) = .ok (.vcc ctrl value) := by
  simp [decode, decodeCommand]

/-- The low byte of a word that ends in two bytes (R40). -/
theorem valueField_append (x : BitVec 16) (ctrl value : Byte) : valueField (x ++ ctrl ++ value) = value :=
  BitVec.extractLsb'_append_eq_right

/-- The next byte of a word that ends in two bytes (R40). -/
theorem ctrlField_append (x : BitVec 16) (ctrl value : Byte) : ctrlField (x ++ ctrl ++ value) = ctrl :=
  (BitVec.extractLsb'_append_eq_of_le (by decide)).trans BitVec.extractLsb'_append_eq_right

/-- The opcode of a word that is written as opcode, ignored bits and two bytes (R40). -/
theorem topField_append_two (op : Nibble) (x : BitVec 12) (ctrl value : Byte) :
    topField (op ++ x ++ ctrl ++ value) = op :=
  (BitVec.extractLsb'_append_eq_of_le (by decide)).trans
    ((BitVec.extractLsb'_append_eq_of_le (by decide)).trans BitVec.extractLsb'_append_eq_left)

/-- A VCC word is read as VCC of its last two bytes, whatever its ignored bits are (R40, R52). -/
theorem decode_vcc_append (x : BitVec 12) (ctrl value : Byte) :
    decode (.command (0x5#4 ++ x ++ ctrl ++ value)) = .ok (.vcc ctrl value) := by
  have htop : (topField (0x5#4 ++ x ++ ctrl ++ value)).toNat = 5 := by rw [topField_append_two]; rfl
  have hctrl : ctrlField (0x5#4 ++ x ++ ctrl ++ value) = ctrl := ctrlField_append (0x5#4 ++ x) ctrl value
  have hvalue : valueField (0x5#4 ++ x ++ ctrl ++ value) = value := valueField_append (0x5#4 ++ x) ctrl value
  simp only [decode, decodeCommand, htop, hctrl, hvalue, directCommand_default]

end Sys2Proof.Machine
end

section
/-! PROOFS, 30_encoding.md: the CC messages. The words that the decoder takes are the messages with a 7-bit value, and each is read
as one row, `ccRow`, which is written as that message. -/

namespace Sys2Proof.Machine

@[simp] theorem ccWordOf_extract_ctrl (ctrl value : Byte) : (ccWordOf ctrl value).extractLsb' 8 8 = ctrl :=
  (BitVec.extractLsb'_append_eq_of_le (by decide)).trans BitVec.extractLsb'_append_eq_right

@[simp] theorem ccWordOf_extract_value (ctrl : Byte) (value : Septet) :
    (ccWordOf ctrl (groupByte value)).extractLsb' 0 7 = value := by
  apply BitVec.eq_of_getLsbD_eq
  intro k hk
  rw [BitVec.getLsbD_extractLsb', ccWordOf_getLsbD, if_pos (by omega), groupByte_getLsbD]
  simp [hk]

@[simp] theorem ccWordOf_extract_nibble (ctrl : Byte) (value : Septet) :
    (ccWordOf ctrl (groupByte value)).extractLsb' 0 4 = value.setWidth 4 := by
  apply BitVec.eq_of_getLsbD_eq
  intro k hk
  rw [BitVec.getLsbD_extractLsb', ccWordOf_getLsbD, if_pos (by omega), groupByte_getLsbD]
  simp [hk]

/-- A message with a 7-bit value has the row's pattern under the row's mask (R42). -/
theorem ccWordOf_mask (ctrl : Byte) (value : Septet) :
    ccWordOf ctrl (groupByte value) &&& 0xFF0080#24 = 0xB00000#24 := by
  obtain ⟨-, hmask⟩ := Laws.EncodedWordMatchesRow.ccGeneric ctrl value
  exact BitVec.eq_of_toNat_eq hmask

/-- A word is the bits under a mask and the bits beside it. -/
theorem eq_or_of_and_eq {n : Nat} {w m p : BitVec n} (h : w &&& m = p) : w = p ||| (w &&& ~~~m) := by
  rw [← h, ← BitVec.and_or_distrib_left]
  simp

/-- The 24 bits that have the status byte and a clear bit 7 of the value are a message with a 7-bit value (R42). -/
theorem eq_ccWordOf_of_mask (w : CcWord) (h : w &&& 0xFF0080#24 = 0xB00000#24) :
    w = ccWordOf (w.extractLsb' 8 8) (groupByte (w.extractLsb' 0 7)) := by
  refine (eq_or_of_and_eq h).trans (BitVec.eq_of_getLsbD_eq fun k hk => ?_)
  rw [ccWordOf_getLsbD, groupByte_getLsbD]
  interval_cases k <;> simp

/-- The row that a CC message is read as: a color row if the controller is one of the six and the value is at most 15, and
CC_GENERIC otherwise (R43; log 5). -/
def ccRow (ctrl : Byte) (value : Septet) : Instr :=
  if 15 < value.toNat then .ccGeneric ctrl value
  else if ctrl = 101#8 then .ccRLo (value.setWidth 4)
  else if ctrl = 100#8 then .ccRHi (value.setWidth 4)
  else if ctrl = 103#8 then .ccGLo (value.setWidth 4)
  else if ctrl = 102#8 then .ccGHi (value.setWidth 4)
  else if ctrl = 105#8 then .ccBLo (value.setWidth 4)
  else if ctrl = 104#8 then .ccBHi (value.setWidth 4)
  else .ccGeneric ctrl value

/-- The decoder reads a message with a 7-bit value as its row (R42, R43). -/
@[simp] theorem decodeCcMessage_ccWordOf (ctrl : Byte) (value : Septet) :
    decodeCcMessage (ccWordOf ctrl (groupByte value)) = .ok (ccRow ctrl value) := by
  simp only [decodeCcMessage, ccWordOf_mask, ccWordOf_extract_ctrl, ccWordOf_extract_value, ccWordOf_extract_nibble, if_true]
  unfold ccRow
  split_ifs <;> rfl

/-- The decoder reads no other CC message (R42). -/
theorem decodeCcMessage_eq_ok (w : CcWord) (i : Instr) (h : decodeCcMessage w = .ok i) :
    ∃ ctrl value, w = ccWordOf ctrl (groupByte value) ∧ i = ccRow ctrl value := by
  by_cases hmask : w &&& 0xFF0080#24 = 0xB00000#24
  · have hw := eq_ccWordOf_of_mask w hmask
    refine ⟨_, _, hw, ?_⟩
    rw [hw, decodeCcMessage_ccWordOf] at h
    exact (Except.ok.inj h).symm
  · simp [decodeCcMessage, hmask] at h

/-- A value of at most 15 is its nibble (R49). -/
theorem nibbleByte_setWidth (value : Septet) (h : value.toNat ≤ 15) : nibbleByte (value.setWidth 4) = groupByte value := by
  apply BitVec.eq_of_toNat_eq
  simp only [nibbleByte, groupByte, BitVec.toNat_setWidth]
  omega

/-- The row that a message is read as is written as that message (R42, R43). -/
theorem encode_ccRow (ctrl : Byte) (value : Septet) :
    encode (ccRow ctrl value) = .sub (.ccMessage (ccWordOf ctrl (groupByte value))) := by
  unfold ccRow
  split_ifs with hvalue
  case pos | neg => rfl
  all_goals
    subst ctrl
    simp only [encode, nibbleByte_setWidth value (Nat.not_lt.mp hvalue)]

/-- A message of a color form is never read as CC_GENERIC (R43; log 5). -/
theorem wellFormed_ccRow (ctrl : Byte) (value : Septet) : WellFormed (ccRow ctrl value) = true := by
  unfold ccRow
  split_ifs with hvalue <;> simp [WellFormed, isColorForm, isColorController, *]

/-- A message that has no color form is read as CC_GENERIC (R43; log 5). -/
theorem ccRow_of_not_isColorForm (ctrl : Byte) (value : Septet) (h : isColorForm ctrl value = false) :
    ccRow ctrl value = .ccGeneric ctrl value := by
  unfold ccRow
  split_ifs with hvalue
  case pos | neg => rfl
  all_goals
    subst ctrl
    simp [isColorForm, isColorController] at h
    omega

/-- A nibble as a value byte is the data byte of a 7-bit group (R49). -/
theorem nibbleByte_eq_groupByte (n : Nibble) : nibbleByte n = groupByte (n.setWidth 7) := by
  revert n
  decide

/-- A message with a nibble as its value is read as the row of its controller (R43). -/
theorem decodeCcMessage_nibble (ctrl : Byte) (n : Nibble) :
    decodeCcMessage (ccWordOf ctrl (nibbleByte n)) = .ok (ccRow ctrl (n.setWidth 7)) := by
  rw [nibbleByte_eq_groupByte, decodeCcMessage_ccWordOf]

/-- The six controllers with a nibble name the six color rows (R43). -/
theorem ccRow_color (n : Nibble) :
    ccRow 0x65#8 (n.setWidth 7) = .ccRLo n ∧ ccRow 0x64#8 (n.setWidth 7) = .ccRHi n
    ∧ ccRow 0x67#8 (n.setWidth 7) = .ccGLo n ∧ ccRow 0x66#8 (n.setWidth 7) = .ccGHi n
    ∧ ccRow 0x69#8 (n.setWidth 7) = .ccBLo n ∧ ccRow 0x68#8 (n.setWidth 7) = .ccBHi n := by
  revert n
  decide

end Sys2Proof.Machine
end

section
/-! PROOFS, 30_encoding.md: the SysEx frames and the log records. The words that the two decoders take are those that the encoder
writes, and so for every sub-word. -/

namespace Sys2Proof.Machine

/-- A frame has the row's pattern under the row's mask (R44). -/
theorem sxWordOf_mask (d0 d1 d2 d3 : Septet) :
    sxWordOf d0 d1 d2 d3 &&& 0xFFFFFF80808080FF#64 = 0xF0640100000000F7#64 := by
  obtain ⟨-, hmask⟩ := Laws.EncodedWordMatchesRow.sysexColor d0 d1 d2 d3
  exact BitVec.eq_of_toNat_eq hmask

/-- The four groups of a frame (R44). -/
theorem sxWordOf_extract (d0 d1 d2 d3 : Septet) :
    (sxWordOf d0 d1 d2 d3).extractLsb' 32 7 = d0 ∧ (sxWordOf d0 d1 d2 d3).extractLsb' 24 7 = d1
    ∧ (sxWordOf d0 d1 d2 d3).extractLsb' 16 7 = d2 ∧ (sxWordOf d0 d1 d2 d3).extractLsb' 8 7 = d3 := by
  refine ⟨?_, ?_, ?_, ?_⟩
  all_goals
    apply BitVec.eq_of_getLsbD_eq
    intro k hk
    rw [BitVec.getLsbD_extractLsb', sxWordOf_getLsbD]
    interval_cases k <;> simp

/-- The 64 bits that have the header, four clear bits 7 and the end marker are a frame (R44). -/
theorem eq_sxWordOf_of_mask (w : SxWord) (h : w &&& 0xFFFFFF80808080FF#64 = 0xF0640100000000F7#64) :
    w = sxWordOf (w.extractLsb' 32 7) (w.extractLsb' 24 7) (w.extractLsb' 16 7) (w.extractLsb' 8 7) := by
  refine (eq_or_of_and_eq h).trans (BitVec.eq_of_getLsbD_eq fun k hk => ?_)
  rw [sxWordOf_getLsbD]
  interval_cases k <;> simp

/-- The decoder reads a frame as its four groups (R44). -/
@[simp] theorem decodeSysexFrame_sxWordOf (d0 d1 d2 d3 : Septet) :
    decodeSysexFrame (sxWordOf d0 d1 d2 d3) = .ok (.sysexColor d0 d1 d2 d3) := by
  obtain ⟨h0, h1, h2, h3⟩ := sxWordOf_extract d0 d1 d2 d3
  simp only [decodeSysexFrame, sxWordOf_mask, h0, h1, h2, h3, if_true]

/-- The decoder reads no other frame (R44). -/
theorem decodeSysexFrame_eq_ok (w : SxWord) (i : Instr) (h : decodeSysexFrame w = .ok i) :
    ∃ d0 d1 d2 d3, w = sxWordOf d0 d1 d2 d3 ∧ i = .sysexColor d0 d1 d2 d3 := by
  by_cases hmask : w &&& 0xFFFFFF80808080FF#64 = 0xF0640100000000F7#64
  · have hw := eq_sxWordOf_of_mask w hmask
    refine ⟨_, _, _, _, hw, ?_⟩
    rw [hw, decodeSysexFrame_sxWordOf] at h
    exact (Except.ok.inj h).symm
  · simp [decodeSysexFrame, hmask] at h

/-- A command word or log record is its top four bits and the 28 below them (R40, R46). -/
theorem joinWord_fields (w : Word) : joinWord (topField w) (colorField w) = w := by
  apply BitVec.eq_of_getLsbD_eq
  intro k hk
  rw [joinWord_getLsbD, topField, colorField, BitVec.getLsbD_extractLsb', BitVec.getLsbD_extractLsb']
  split_ifs with h28
  · simp [h28]
  · simp [show k - 28 < 4 by omega, show 28 + (k - 28) = k by omega]

/-- The payload of a CC record has zeros in bits 27 to 16 (R53). -/
@[simp] theorem highArgField_joinWord_ctrlValue (top : Nibble) (ctrl value : Byte) :
    highArgField (joinWord top (ctrlValue ctrl value)) = 0#12 := by
  apply BitVec.eq_of_getLsbD_eq
  intro k hk
  rw [highArgField, BitVec.getLsbD_extractLsb', joinWord_getLsbD, if_pos (by omega), ctrlValue_getLsbD, if_neg (by omega),
    BitVec.getLsbD_of_ge ctrl _ (by omega)]
  simp

/-- With zeros in bits 27 to 16 the 28 low bits are a controller and a value (R47, R53). -/
theorem colorField_eq_ctrlValue (w : Word) (h : highArgField w = 0#12) :
    colorField w = ctrlValue (ctrlField w) (valueField w) := by
  apply BitVec.eq_of_getLsbD_eq
  intro k hk
  rw [ctrlValue_getLsbD, colorField, ctrlField, valueField]
  simp only [BitVec.getLsbD_extractLsb', hk, decide_true, Bool.true_and, Nat.zero_add]
  split_ifs with h8
  · simp [h8]
  · by_cases h16 : k < 16
    · simp [show k - 8 < 8 by omega, show 8 + (k - 8) = k by omega]
    · have hbit := congrArg (fun v : BitVec 12 => v.getLsbD (k - 16)) h
      simp only [highArgField, BitVec.getLsbD_extractLsb', BitVec.getLsbD_zero, show k - 16 < 12 by omega,
        show 16 + (k - 16) = k by omega, decide_true, Bool.true_and] at hbit
      simp [hbit, show ¬ k - 8 < 8 by omega]

/-- The decoder reads the four records and no other word (R47, R53). -/
theorem decodeLogRecord_eq_ok (w : Word) (i : Instr) (h : decodeLogRecord w = .ok i) :
    (i = .logSelChanged ∧ w = joinWord 0x1#4 0#28)
    ∨ (∃ ctrl value, i = .logCcSent ctrl value ∧ w = joinWord 0x2#4 (ctrlValue ctrl value))
    ∨ (∃ ctrl value, i = .logCcRangeErr ctrl value ∧ w = joinWord 0x3#4 (ctrlValue ctrl value))
    ∨ ∃ color, i = .logSxSent color ∧ w = joinWord 0x4#4 color := by
  have hword (code : Nibble) (payload : BitVec 28) (hc : (topField w).toNat = code.toNat) (hp : colorField w = payload) :
      w = joinWord code payload := by
    rw [← joinWord_fields w, BitVec.eq_of_toNat_eq hc, hp]
  unfold decodeLogRecord at h
  split at h
  case h_1 hcode =>
    split_ifs at h with hp
    exact .inl ⟨(Except.ok.inj h).symm, hword 0x1#4 _ hcode hp⟩
  case h_2 hcode =>
    split_ifs at h with hp
    exact .inr (.inl ⟨_, _, (Except.ok.inj h).symm, hword 0x2#4 _ hcode (colorField_eq_ctrlValue w hp)⟩)
  case h_3 hcode =>
    split_ifs at h with hp
    exact .inr (.inr (.inl ⟨_, _, (Except.ok.inj h).symm, hword 0x3#4 _ hcode (colorField_eq_ctrlValue w hp)⟩))
  case h_4 hcode => exact .inr (.inr (.inr ⟨_, (Except.ok.inj h).symm, hword 0x4#4 _ hcode rfl⟩))
  case h_5 => cases h

@[simp] theorem decodeLogRecord_selChanged : decodeLogRecord (joinWord 0x1#4 0#28) = .ok .logSelChanged := rfl

@[simp] theorem decodeLogRecord_ccSent (ctrl value : Byte) :
    decodeLogRecord (joinWord 0x2#4 (ctrlValue ctrl value)) = .ok (.logCcSent ctrl value) := by
  simp [decodeLogRecord]

@[simp] theorem decodeLogRecord_ccRangeErr (ctrl value : Byte) :
    decodeLogRecord (joinWord 0x3#4 (ctrlValue ctrl value)) = .ok (.logCcRangeErr ctrl value) := by
  simp [decodeLogRecord]

@[simp] theorem decodeLogRecord_sxSent (color : Color) :
    decodeLogRecord (joinWord 0x4#4 color) = .ok (.logSxSent color) := by
  simp [decodeLogRecord]

/-- What a sub-word is read as is well formed and written as that sub-word. -/
theorem decodeSub_eq_ok (u : SubWord) (i : Instr) (h : decodeSub u = .ok i) :
    WellFormed i = true ∧ encode i = .sub u := by
  cases u with
  | ccMessage w =>
    obtain ⟨ctrl, value, rfl, rfl⟩ := decodeCcMessage_eq_ok w i h
    exact ⟨wellFormed_ccRow ctrl value, encode_ccRow ctrl value⟩
  | sysexFrame w =>
    obtain ⟨d0, d1, d2, d3, rfl, rfl⟩ := decodeSysexFrame_eq_ok w i h
    exact ⟨rfl, rfl⟩
  | logRecord w =>
    obtain ⟨rfl, rfl⟩ | ⟨ctrl, value, rfl, rfl⟩ | ⟨ctrl, value, rfl, rfl⟩ | ⟨color, rfl, rfl⟩ :=
      decodeLogRecord_eq_ok w i h
    all_goals exact ⟨rfl, rfl⟩
  | chanIn color | nibIn ch | ccPackIn color | sxPackIn color | validIn value =>
    obtain rfl := Except.ok.inj h
    exact ⟨rfl, rfl⟩

end Sys2Proof.Machine
end

section
/-! PROOFS, 30_encoding.md: the messages of the color commands, and the receiver of the bare byte stream. -/

namespace Sys2Proof.Machine

@[simp] theorem messages_nil : messages [] = [] := rfl

@[simp] theorem messages_cons_midi (bytes : List Byte) (es : List Event) :
    messages (.midi bytes :: es) = bytes :: messages es := rfl

@[simp] theorem messages_cons_log (code : Nibble) (payload : BitVec 28) (es : List Event) :
    messages (.log code payload :: es) = messages es := rfl

@[simp] theorem messages_append (es es' : List Event) : messages (es ++ es') = messages es ++ messages es' :=
  List.filterMap_append

/-- The messages of color pairs are the CC messages of the pairs, in order (R43, R80). -/
@[simp] theorem messages_nibbleEvents (cfg : Config) (pairs : List (Byte × Nibble)) :
    messages (pairs.flatMap (nibbleEvents cfg)) = pairs.map fun pair => ccMessage cfg pair.1 (nibbleByte pair.2) := by
  induction pairs with
  | nil => rfl
  | cons pair rest ih => simp [nibbleEvents, ih]

/-- A nibble in a value byte stands below four zero bits (R49). -/
theorem nibbleByte_eq_append (n : Nibble) : nibbleByte n = 0#4 ++ n := by
  revert n
  decide

/-- The message that a color row sends, in bit terms (R42, R43). -/
theorem nibbleMessageOp_eq (ctrl : Byte) (n : Nibble) (s : State) :
    nibbleMessageOp Config.default ctrl n s = { s with trace := s.trace ++ [.midi [0xB0#8, ctrl, 0#4 ++ n]] } := by
  rw [← nibbleByte_eq_append]
  rfl

/-- The message that CC_GENERIC sends, in bit terms (R42). -/
theorem genericMessageOp_eq (ctrl : Byte) (value : Septet) (s : State) :
    genericMessageOp Config.default ctrl value s =
      { s with trace := s.trace ++ [.midi [0xB0#8, ctrl, 0#1 ++ value]] } := by
  rw [← groupByte_eq_append]
  rfl

/-- The message that SYSEX_COLOR sends, in bit terms (R44). -/
theorem sysexMessageOp_eq (d0 d1 d2 d3 : Septet) (s : State) :
    sysexMessageOp Config.default d0 d1 d2 d3 s =
      { s with
        trace := s.trace ++ [.midi [0xF0#8, 0x64#8, 0x01#8, 0#1 ++ d0, 0#1 ++ d1, 0#1 ++ d2, 0#1 ++ d3, 0xF7#8]] } := by
  simp only [← groupByte_eq_append]
  rfl

/-- A CC message of the default `Config` can be told from the next if its two data bytes have bit 7 clear (R54). -/
theorem streamable_ccMessage (ctrl value : Byte) :
    streamable (ccMessage Config.default ctrl value) = true ↔ ctrl.toNat ≤ 127 ∧ value.toNat ≤ 127 := by
  simp [streamable, ccMessage, Config.default]

/-- The frame of the default `Config` can be told from the next message (R54, R67). -/
theorem streamable_encsx (color : Color) : streamable (encsx Config.default color) = true := by
  simp [encsx_eq_sysexFrame, streamable, sysexFrame, Config.default]

theorem streamable_cccolEvents (color : Color) (e : Bool) :
    ∀ m ∈ messages (cccolEvents Config.default color e), streamable m = true := by
  cases e with
  | false => simp [cccolEvents]
  | true =>
    simp only [cccolEvents, if_true, messages_nibbleEvents, enccc_eq_extractLsb', List.map_cons, List.map_nil,
      List.forall_mem_cons, streamable_ccMessage, nibbleByte_le]
    simp [Config.default]

theorem streamable_sxcolEvents (color : Color) (e : Bool) :
    ∀ m ∈ messages (sxcolEvents Config.default color e), streamable m = true := by
  cases e <;> simp [sxcolEvents, streamable_encsx]

/-- What can be told from the next message is a CC message with two data bytes, or a frame with six (R54). -/
theorem streamable_cases (m : List Byte) (h : streamable m = true) :
    (∃ ctrl value, m = [0xB0#8, ctrl, value])
    ∨ ∃ b1 b2 d0 d1 d2 d3 : Byte, m = [0xF0#8, b1, b2, d0, d1, d2, d3, 0xF7#8]
        ∧ ∀ b ∈ [b1, b2, d0, d1, d2, d3], b ≠ 0xF7#8 := by
  unfold streamable at h
  split at h
  case h_1 b0 ctrl value =>
    simp only [Bool.and_eq_true, beq_iff_eq] at h
    obtain ⟨⟨rfl, -⟩, -⟩ := h
    exact .inl ⟨ctrl, value, rfl⟩
  case h_2 b0 b1 b2 d0 d1 d2 d3 b7 =>
    simp only [Bool.and_eq_true, beq_iff_eq, List.all_eq_true, decide_eq_true_eq] at h
    obtain ⟨⟨rfl, rfl⟩, hclear⟩ := h
    refine .inr ⟨b1, b2, d0, d1, d2, d3, rfl, fun b hb hend => ?_⟩
    have hle := hclear b hb
    rw [hend] at hle
    exact absurd hle (by decide)
  case h_3 => cases h

/-- The receiver takes the first message off the stream, and goes on with the rest (R54). -/
theorem splitStream_append (m : List Byte) (rest : List Byte) (h : streamable m = true) :
    splitStream [] (m ++ rest) = m :: splitStream [] rest := by
  obtain ⟨ctrl, value, rfl⟩ | ⟨b1, b2, d0, d1, d2, d3, rfl, hne⟩ := streamable_cases m h
  · simp [splitStream, messageEnds]
  · simp only [List.forall_mem_cons] at hne
    obtain ⟨h1, h2, h3, h4, h5, h6, -⟩ := hne
    simp [splitStream, messageEnds, h1, h2, h3, h4, h5, h6]

/-- The receiver splits a stream of such messages into them (R54). -/
theorem splitStream_flatten (ms : List (List Byte)) (h : ∀ m ∈ ms, streamable m = true) :
    splitStream [] ms.flatten = ms := by
  induction ms with
  | nil => rfl
  | cons m rest ih =>
    obtain ⟨hm, hrest⟩ := List.forall_mem_cons.mp h
    rw [List.flatten_cons, splitStream_append m _ hm, ih hrest]

end Sys2Proof.Machine
end

section
/-! PROOFS, 30_encoding.md: the assembler's words as numbers. -/

namespace Sys2Proof.Machine

/-- A command word with a 28-bit operand is its opcode with the operand or-ed in (R40, R55). -/
theorem joinWord_ofNat (top : Nibble) (n : Nat) (hn : n < 2 ^ 28) :
    joinWord top (BitVec.ofNat 28 n) = joinWord top 0#28 ||| BitVec.ofNat 32 n := by
  apply BitVec.eq_of_getLsbD_eq
  intro k hk
  simp only [BitVec.getLsbD_or, joinWord_getLsbD, BitVec.getLsbD_ofNat, hk, decide_true, Bool.true_and]
  split_ifs with h28
  · simp [h28]
  · have hhigh : n.testBit k = false :=
      Nat.testBit_lt_two_pow (hn.trans_le (Nat.pow_le_pow_right (by decide) (Nat.le_of_not_lt h28)))
    simp [hhigh]

/-- A number shifted above another and or-ed with it is the number with both as digits. -/
theorem ofNat_shiftLeft_or (w a b i : Nat) (hb : b < 2 ^ i) :
    BitVec.ofNat w a <<< i ||| BitVec.ofNat w b = BitVec.ofNat w (a * 2 ^ i + b) := by
  rw [← Nat.shiftLeft_eq, Nat.shiftLeft_add_eq_or_of_lt hb]
  apply BitVec.eq_of_getLsbD_eq
  intro k hk
  have hki : k - i < w := by omega
  simp only [BitVec.getLsbD_or, BitVec.getLsbD_shiftLeft, BitVec.getLsbD_ofNat, Nat.testBit_or, Nat.testBit_shiftLeft, hk,
    hki, decide_true, Bool.true_and]
  by_cases hi : k < i
  · simp [hi, Nat.not_le.mpr hi]
  · simp [hi, Nat.not_lt.mp hi]

theorem setWidth_ofNat_byte (n : Nat) (hn : n ≤ 255) : (BitVec.ofNat 8 n).setWidth 28 = BitVec.ofNat 28 n := by
  apply BitVec.eq_of_toNat_eq
  simp only [BitVec.toNat_setWidth, BitVec.toNat_ofNat]
  omega

/-- The operand of VCC in the form of R55. -/
theorem ctrlValue_eq_or (ctrl value : Byte) :
    ctrlValue ctrl value = ctrl.setWidth 28 <<< 8 ||| value.setWidth 28 := by
  apply BitVec.eq_of_getLsbD_eq
  intro k hk
  rw [ctrlValue_getLsbD]
  by_cases h8 : k < 8
  · simp [h8, hk]
  · simp [h8, hk, BitVec.getLsbD_of_ge value k (Nat.le_of_not_lt h8)]

/-- The operand of VCC as a number (R55). -/
theorem ctrlValue_ofNat (ctrl value : Nat) (hc : ctrl ≤ 255) (hv : value ≤ 255) :
    ctrlValue (BitVec.ofNat 8 ctrl) (BitVec.ofNat 8 value) = BitVec.ofNat 28 (ctrl * 2 ^ 8 + value) := by
  rw [ctrlValue_eq_or, setWidth_ofNat_byte ctrl hc, setWidth_ofNat_byte value hv, ofNat_shiftLeft_or _ _ _ _ (by omega)]

/-- VCC's word in the form of R55. -/
theorem joinWord_ctrlValue_ofNat (top : Nibble) (ctrl value : Nat) (hc : ctrl ≤ 255) (hv : value ≤ 255) :
    joinWord top (ctrlValue (BitVec.ofNat 8 ctrl) (BitVec.ofNat 8 value)) =
      joinWord top 0#28 ||| (BitVec.ofNat 32 ctrl <<< 8) ||| BitVec.ofNat 32 value := by
  rw [BitVec.or_assoc, ofNat_shiftLeft_or _ _ _ _ (by omega), ctrlValue_ofNat ctrl value hc hv, joinWord_ofNat _ _ (by omega)]

/-- The color of three channels as a number (R56). -/
theorem unchan_ofNat (r g b : Nat) (hr : r ≤ 255) (hg : g ≤ 255) (hb : b ≤ 255) :
    unchan (BitVec.ofNat 8 r) (BitVec.ofNat 8 g) (BitVec.ofNat 8 b) =
      BitVec.ofNat 28 (r * 2 ^ 16 + (g * 2 ^ 8 + b)) := by
  rw [unchan, setWidth_ofNat_byte r hr, setWidth_ofNat_byte g hg, setWidth_ofNat_byte b hb, BitVec.or_assoc,
    ofNat_shiftLeft_or _ _ _ _ (by omega), ofNat_shiftLeft_or _ _ _ _ (by omega)]

/-- A line with one operand is the command word of its opcode and the operand, or an error (R55). -/
theorem asmWord_eq (limit : Nat) (top : Nibble) (operand : Nat) (hl : limit < 2 ^ 28) :
    asmWord limit top operand =
      if operand ≤ limit then .command (joinWord top 0#28 ||| BitVec.ofNat 32 operand) else .wrong := by
  unfold asmWord
  split_ifs with h
  · rw [joinWord_ofNat top operand (by omega)]
  · rfl

/-- A line VCC is the command word of R55, or an error. -/
theorem assembleLine_vcc (ctrl value : Nat) :
    assembleLine (.vcc ctrl value) =
      if ctrl ≤ 255 ∧ value ≤ 255 then
        .command (0x50000000#32 ||| (BitVec.ofNat 32 ctrl <<< 8) ||| BitVec.ofNat 32 value)
      else .wrong := by
  simp only [assembleLine]
  split_ifs with h
  · obtain ⟨hc, hv⟩ := h
    rw [joinWord_ctrlValue_ofNat 0x5#4 ctrl value hc hv]
    rfl
  · rfl

/-- A line SEL of three channels is SEL of their color, or an error (R56). -/
theorem assembleLine_selRgb (r g b : Nat) :
    assembleLine (.selRgb r g b) =
      if r ≤ 255 ∧ g ≤ 255 ∧ b ≤ 255 then assembleLine (.sel (r * 65536 + g * 256 + b)) else .wrong := by
  simp only [assembleLine]
  split_ifs with h
  · obtain ⟨hr, hg, hb⟩ := h
    have hsum : r * 2 ^ 16 + (g * 2 ^ 8 + b) = r * 65536 + g * 256 + b := by omega
    rw [unchan_ofNat r g b hr hg hb, hsum, asmWord, if_pos (by omega)]
  · rfl

end Sys2Proof.Machine
end

section
/-! PROOFS, 30_encoding.md: the statements of the family, each assembled from the facts above. -/

namespace Sys2Proof.Machine

/-- Settles O1, row by row, by the lemma of the row's format; well-formedness is what CC_GENERIC needs. -/
theorem encodeThenDecodeGivesTheInstruction : Obligations.EncodeThenDecodeGivesTheInstruction := by
  intro i hi
  cases i with
  | selnone => exact decode_selnone_word 0#28
  | sel color => exact decode_sel_word color
  | seten en => exact decode_seten_word en
  | cccol color => exact decode_cccol_word color
  | sxcol color => exact decode_sxcol_word color
  | vcc ctrl value => exact decode_vcc_word ctrl value
  | ccRLo n | ccRHi n | ccGLo n | ccGHi n | ccBLo n | ccBHi n =>
    obtain ⟨hrlo, hrhi, hglo, hghi, hblo, hbhi⟩ := ccRow_color n
    simp only [encode, decode, decodeSub, decodeCcMessage_nibble, hrlo, hrhi, hglo, hghi, hblo, hbhi]
  | ccGeneric ctrl value =>
    have hform : isColorForm ctrl value = false := by simpa [WellFormed] using hi
    simp only [encode, decode, decodeSub, decodeCcMessage_ccWordOf, ccRow_of_not_isColorForm ctrl value hform]
  | sysexColor d0 d1 d2 d3 => exact decodeSysexFrame_sxWordOf d0 d1 d2 d3
  | logSelChanged => exact decodeLogRecord_selChanged
  | logCcSent ctrl value => exact decodeLogRecord_ccSent ctrl value
  | logCcRangeErr ctrl value => exact decodeLogRecord_ccRangeErr ctrl value
  | logSxSent color => exact decodeLogRecord_sxSent color
  | chan color | nib ch | enccc color | encsx color | valid7 value => rfl

/-- Settles O2: a command word is read as one of the six commands, and a sub-word as `decodeSub_eq_ok` says. -/
theorem decodedInstructionIsWellFormed : Obligations.DecodedInstructionIsWellFormed := by
  refine ⟨fun e i h => ?_, fun u i h => (decodeSub_eq_ok u i h).2⟩
  cases e with
  | command w =>
    obtain rfl | ⟨color, rfl⟩ | ⟨en, rfl⟩ | ⟨color, rfl⟩ | ⟨color, rfl⟩ | ⟨ctrl, value, rfl⟩ :=
      decodeCommand_eq_ok_cases Params.default w i h
    all_goals rfl
  | sub u => exact (decodeSub_eq_ok u i h).1

/-- Settles O3: the clause of each opcode is the case of the decoder that has it. -/
theorem commandWordsFollowTheOpcodeMap : Obligations.CommandWordsFollowTheOpcodeMap := by
  intro w
  refine ⟨fun h => ?_, fun h => ?_, fun h => ?_, fun h => ?_, fun h => ?_, fun h => ?_,
    decodeCommand_reserved Params.default w⟩
  all_goals
    change topField w = _ at h
    simp [decode, decodeCommand, h, colorField, enField, ctrlField, valueField]

/-- Settles O4, by running the decoder on the seven words. -/
theorem wordsOfTheSpecDecode : Obligations.WordsOfTheSpecDecode := by
  unfold Obligations.WordsOfTheSpecDecode
  decide

/-- Settles O5: the decoder refuses the word, and the step and the accepting cycle refuse what it refuses. -/
theorem reservedOpcodeHasNoResult : Obligations.ReservedOpcodeHasNoResult := by
  have hnone (cfg : Config) (prm : Params) (enabled : Bool) (w : Word) (hw : 0x60000000 ≤ w.toNat) :
      blockStep cfg prm enabled w = none :=
    blockStep_of_error cfg prm enabled w _ (decodeCommand_reserved prm w (six_le_topField w hw))
  refine ⟨hnone, fun w rest s hs hw => ?_, fun i p s hr hv hwd hready hw => ?_⟩
  · exact step_of_blockStep_none w rest s hs (hnone _ _ _ w hw)
  · rw [cycle_of_ready i p s hr hwd hready]
    exact idleCycle_of_blockStep_none i p s hv (hnone _ _ _ i.cmd hw)

/-- Settles O6: a word that is written as opcode and operand bits is read by its opcode and its own operand bits. -/
theorem unusedOperandBitsAreIgnored : Obligations.UnusedOperandBitsAreIgnored :=
  ⟨decode_selnone_word, decodeCommand_seten Params.default, decode_vcc_append,
    fun color => ⟨decode_sel_word color, decode_cccol_word color, decode_sxcol_word color⟩⟩

/-- Settles O14: `exec` calls the effects of the rows, and CCCOL's pairs are the six controllers with the color's nibbles. -/
theorem colorMessageRowsAreTheSixOfAColor : Obligations.ColorMessageRowsAreTheSixOfAColor := by
  refine ⟨fun n s => ?_, fun color => ?_⟩
  · simp only [exec_eq_next_effect, effect, nibbleMessageOp_eq]
    exact ⟨rfl, rfl, rfl, rfl, rfl, rfl⟩
  · simp only [eventsOf_cccol, cccolEvents, if_true, messages_nibbleEvents, enccc_eq_extractLsb', List.map_cons, List.map_nil,
      ccMessage, nibbleByte_eq_append]
    rfl

/-- Settles O15: the row is one `MidiSend` of the three bytes. -/
theorem genericMessageRowSendsThreeBytes : Obligations.GenericMessageRowSendsThreeBytes :=
  fun ctrl value s => congrArg Host.Outcome.next (genericMessageOp_eq ctrl value s)

/-- Settles O16: the row is one `MidiSend` of the eight bytes, and ENCSX packs the four groups. -/
theorem sysexRowSendsEightBytes : Obligations.SysexRowSendsEightBytes :=
  ⟨fun d0 d1 d2 d3 s => congrArg Host.Outcome.next (sysexMessageOp_eq d0 d1 d2 d3 s), encsx_eq_sysexFrame⟩

/-- Settles O17: each row is one `LogEmit`. -/
theorem recordRowsEmitOneRecord : Obligations.RecordRowsEmitOneRecord :=
  ⟨fun _ => rfl, fun _ _ _ => ⟨rfl, rfl⟩, fun _ _ => rfl, fun _ _ => rfl⟩

/-- Settles O33: SEL's messages are CCCOL's and SXCOL's. -/
theorem colorMessagesAreStreamable : Obligations.ColorMessagesAreStreamable := by
  intro enabled color
  have hcc := streamable_cccolEvents color enabled
  have hsx := streamable_sxcolEvents color enabled
  rw [eventsOf_sel, eventsOf_cccol, eventsOf_sxcol]
  refine ⟨fun m hm => ?_, hcc, hsx⟩
  simp only [selEvents, messages_append, messages_cons_log, messages_nil, List.append_nil, List.mem_append] at hm
  exact hm.elim (hcc m) (hsx m)

/-- Settles O50, message by message along the trace's list of messages. -/
theorem receiverSplitsTheByteStream : Obligations.ReceiverSplitsTheByteStream :=
  fun es => splitStream_flatten (messages es)

/-- Settles O60: the lines' words as numbers, and what the decoder reads from them. -/
theorem assembledLinesAreTheirCommands : Obligations.AssembledLinesAreTheirCommands := by
  refine ⟨rfl, rfl, rfl, fun en => asmWord_eq 1 0x2#4 en (by decide), fun color => ⟨?_, ?_, ?_⟩, assembleLine_vcc,
    assembleLine_selRgb, fun color hcolor => ?_, fun ctrl value hc hv => ?_⟩
  · exact asmWord_eq 0xFFFFFFF 0x1#4 color (by decide)
  · exact asmWord_eq 0xFFFFFFF 0x3#4 color (by decide)
  · exact asmWord_eq 0xFFFFFFF 0x4#4 color (by decide)
  · have hread (top : Nibble) (i : Instr) (h : decode (.command (joinWord top (BitVec.ofNat 28 color))) = .ok i) :
        decode (.command (joinWord top 0#28 ||| BitVec.ofNat 32 color)) = .ok i := by
      rwa [← joinWord_ofNat top color (by omega)]
    exact ⟨hread 0x1#4 _ (decode_sel_word _), hread 0x3#4 _ (decode_cccol_word _), hread 0x4#4 _ (decode_sxcol_word _)⟩
  · have hread := decode_vcc_word (BitVec.ofNat 8 ctrl) (BitVec.ofNat 8 value)
    rwa [joinWord_ctrlValue_ofNat 0x5#4 ctrl value hc hv] at hread

end Sys2Proof.Machine
end

section
/-! PROOFS, 40_encoder.md: the 24-bit color, and the inverses of the packers as concatenations of slices. -/

namespace Sys2Proof.Machine

/-- The mask of `rgb` keeps the low 24 bits (R61). -/
theorem rgb_eq_setWidth (color : Color) : rgb color = (color.extractLsb' 0 24).setWidth 28 := by
  apply BitVec.eq_of_toNat_eq
  have hlt : color.toNat % 2 ^ 24 < 2 ^ 28 := by omega
  rw [rgb, BitVec.toNat_and, BitVec.toNat_setWidth, BitVec.extractLsb'_toNat, Nat.shiftRight_zero, Nat.mod_eq_of_lt hlt]
  exact Nat.and_two_pow_sub_one_eq_mod color.toNat 24

/-- A slice below bit 24 does not see the bits that `rgb` clears (R61). -/
theorem extractLsb'_rgb (color : Color) (start len : Nat) (h : start + len ≤ 24) :
    (rgb color).extractLsb' start len = color.extractLsb' start len := by
  rw [rgb_eq_setWidth, BitVec.extractLsb'_setWidth_of_le (by omega), BitVec.extractLsb'_extractLsb'_of_le (by omega)]

/-- CHAN ignores the bits above 23 (R61). -/
theorem chan_rgb (color : Color) : chan (rgb color) = chan color := by
  simp only [chan_eq_extractLsb', extractLsb'_rgb, Nat.reduceAdd, Nat.reduceLeDiff]

/-- ENCCC ignores the bits above 23 (R64). -/
theorem enccc_rgb (cfg : Config) (color : Color) : enccc cfg (rgb color) = enccc cfg color := by
  simp only [enccc, chan_rgb]

/-- The reconstruction from three channels is their concatenation (R61). -/
theorem unchan_eq_append (r g b : Byte) : unchan r g b = (r ++ g ++ b).setWidth 28 := by
  rw [BitVec.setWidth_append_append_eq_shiftLeft_setWidth_or, unchan]

/-- UNNIB is the concatenation of the high and the low nibble (R63). -/
theorem unnib_eq_append (lo hi : Nibble) : unnib lo hi = hi ++ lo := by
  rw [← BitVec.setWidth_eq (hi ++ lo), BitVec.setWidth_append_eq_shiftLeft_setWidth_or, unnib, BitVec.or_comm]

/-- The channels, shifted back, are the 24-bit color (R61). -/
theorem unchan_chan (color : Color) : unchan (chan color).1 (chan color).2.1 (chan color).2.2 = rgb color := by
  have hslices : color.extractLsb' 16 8 ++ color.extractLsb' 8 8 ++ color.extractLsb' 0 8 = color.extractLsb' 0 24 := by
    rw [BitVec.extractLsb'_append_extractLsb'_eq_extractLsb' (by decide),
      BitVec.extractLsb'_append_extractLsb'_eq_extractLsb' (by decide)]
  rw [chan_eq_extractLsb', unchan_eq_append, rgb_eq_setWidth, hslices]

theorem unnib_nib (ch : Byte) : unnib (nib ch).1 (nib ch).2 = ch := by
  rw [nib_eq_extractLsb', unnib_eq_append, BitVec.extractLsb'_append_extractLsb']

theorem nib_unnib (lo hi : Nibble) : nib (unnib lo hi) = (lo, hi) := by
  rw [unnib_eq_append, nib_eq_extractLsb', BitVec.extractLsb'_append_eq_right, BitVec.extractLsb'_append_eq_left]

/-- The six values of ENCCC, read back, are the color's 24 bits (R65). -/
theorem unenccc_enccc (cfg : Config) (color : Color) :
    unenccc ((enccc cfg color).map Prod.snd) = some (color.extractLsb' 0 24) := by
  rw [enccc_eq_extractLsb']
  simp only [List.map_cons, List.map_nil, unenccc, Option.some.injEq]
  iterate 5 rw [BitVec.extractLsb'_append_extractLsb'_eq_extractLsb' (by decide)]

/-- ENCCC determines the 24-bit color (R65). -/
theorem rgb_eq_of_enccc_eq (cfg : Config) (color other : Color) (h : enccc cfg other = enccc cfg color) :
    rgb other = rgb color := by
  have hread : some (other.extractLsb' 0 24) = some (color.extractLsb' 0 24) := by
    rw [← unenccc_enccc cfg, ← unenccc_enccc cfg, h]
  rw [rgb_eq_setWidth, rgb_eq_setWidth, Option.some.inj hread]

/-- The frame of a color in bit terms (R66). -/
theorem encsx_eq_colorFrame (cfg : Config) (color : Color) : encsx cfg color = colorFrame cfg color := by
  simp only [encsx_eq_sysexFrame, sysexFrame, groupByte_eq_append, colorFrame]

/-- A group in a data byte is the group, also at the width of a color (R50). -/
theorem setWidth_groupByte (d : Septet) : (groupByte d).setWidth 28 = d.setWidth 28 := by
  apply BitVec.eq_of_getLsbD_eq
  intro k _
  rw [BitVec.getLsbD_setWidth, BitVec.getLsbD_setWidth, groupByte_getLsbD]

/-- The four data bytes of a frame, read back, are its groups, the last one highest (R67). -/
theorem unencsx_sysexFrame (cfg : Config) (d0 d1 d2 d3 : Septet) :
    unencsx (sysexFrame cfg d0 d1 d2 d3) = some (d3 ++ d2 ++ d1 ++ d0) := by
  have hwiden : d3 ++ d2 ++ d1 ++ d0 =
      d3.setWidth 28 <<< 21 ||| d2.setWidth 28 <<< 14 ||| d1.setWidth 28 <<< 7 ||| d0.setWidth 28 := by
    rw [← BitVec.setWidth_eq (d3 ++ d2 ++ d1 ++ d0), BitVec.setWidth_append_append_append_eq_shiftLeft_setWidth_or]
  have hreverse (a b c d : Color) : a ||| b ||| c ||| d = d ||| c ||| b ||| a := by ac_rfl
  rw [hwiden, sysexFrame, unencsx, setWidth_groupByte d0, setWidth_groupByte d1, setWidth_groupByte d2,
    setWidth_groupByte d3, hreverse]

/-- The four data bytes of ENCSX, read back, are the color (R67). -/
theorem unencsx_encsx (cfg : Config) (color : Color) : unencsx (encsx cfg color) = some color := by
  rw [encsx_eq_sysexFrame, unencsx_sysexFrame]
  iterate 3 rw [BitVec.extractLsb'_append_extractLsb'_eq_extractLsb' (by decide)]
  rw [BitVec.extractLsb'_eq_self]

/-- ENCSX determines all 28 bits of the color (R67). -/
theorem encsx_injective (cfg : Config) : Function.Injective (encsx cfg) := fun color other h => by
  have hread := unencsx_encsx cfg color
  rw [h, unencsx_encsx] at hread
  exact (Option.some.inj hread).symm

/-- The last group of a 24-bit color has three bits of it (R66). -/
theorem lastGroup_rgb (color : Color) : (rgb color).extractLsb' 21 7 = 0#4 ++ color.extractLsb' 21 3 := by
  apply BitVec.eq_of_getLsbD_eq
  intro k hk
  rw [rgb_eq_setWidth, BitVec.getLsbD_append]
  split_ifs with h3
  · have h24 : 21 + k < 24 := by omega
    have h28 : 21 + k < 28 := by omega
    simp [hk, h3, h24, h28]
  · have h24 : ¬ 21 + k < 24 := by omega
    simp [h24]

/-- The last data byte of a 24-bit color has three bits of it, below five zeros (R66). -/
theorem groupByte_lastGroup_rgb (color : Color) :
    groupByte ((rgb color).extractLsb' 21 7) = 0#5 ++ color.extractLsb' 21 3 := by
  rw [groupByte_eq_append, lastGroup_rgb, BitVec.append_assoc', BitVec.zero_append_zero]
  rfl

/-- The last data byte of a 24-bit color is at most 7 (R67). -/
theorem groupByte_lastGroup_rgb_le (color : Color) : (groupByte ((rgb color).extractLsb' 21 7)).toNat ≤ 7 := by
  rw [groupByte_lastGroup_rgb, BitVec.toNat_append]
  simpa using Nat.le_of_lt_succ (color.extractLsb' 21 3).isLt

end Sys2Proof.Machine
end

section
/-! PROOFS, 40_encoder.md: the statements of the family, each assembled from the facts above. -/

namespace Sys2Proof.Machine

/-- Settles O18: the channels are slices of the 24-bit color, which is their concatenation. -/
theorem chanExtractsTheChannels : Obligations.ChanExtractsTheChannels :=
  fun color => ⟨chan_eq_extractLsb' color, (chan_rgb color).symm, unchan_chan color⟩

/-- Settles O19, with NIB's shift and mask read as slices. -/
theorem nibSplitsAChannel : Obligations.NibSplitsAChannel := nib_eq_extractLsb'

/-- Settles O20: a byte is the concatenation of its two slices, and they are the slices of their concatenation. -/
theorem nibIsABijection : Obligations.NibIsABijection :=
  ⟨unnib_nib, fun lo hi => ⟨nib_unnib lo hi, unnib_eq_append lo hi⟩⟩

/-- Settles O21: the pairs of every `Config` in bit terms, at the default one too. -/
theorem encccGivesTheSixPairs : Obligations.EncccGivesTheSixPairs :=
  fun cfg color => ⟨enccc_eq_extractLsb' cfg color, (enccc_rgb cfg color).symm, enccc_eq_extractLsb' Config.default color⟩

/-- Settles O22: a nibble is at most 15, and the inverse reads the color's 24 bits from the pairs. -/
theorem encccDeterminesTheColor : Obligations.EncccDeterminesTheColor := by
  intro color
  refine ⟨?_, fun pair _ => ⟨?_, valid7_nibbleByte pair.2⟩, unenccc_enccc Config.default color,
    fun other => rgb_eq_of_enccc_eq Config.default color other⟩
  · rw [enccc_eq_extractLsb']
    rfl
  · exact Nat.le_of_lt_succ pair.2.isLt

/-- Settles O23: the frame is `colorFrame`, whose last group has three bits of a 24-bit color. -/
theorem encsxGivesTheFrame : Obligations.EncsxGivesTheFrame := by
  intro cfg color
  refine ⟨encsx_eq_colorFrame cfg color, encsx_eq_colorFrame Config.default color, fun hrgb => ?_⟩
  rw [encsx_eq_sysexFrame, ← groupByte_lastGroup_rgb, ← hrgb]
  rfl

/-- Settles O24: the constants and the 7-bit data bytes of a frame, and the inverse that reads the color from them. -/
theorem encsxDeterminesTheColor : Obligations.EncsxDeterminesTheColor := by
  intro color
  refine ⟨rfl, rfl, rfl, ?_, unencsx_encsx Config.default color, fun other h => encsx_injective Config.default h,
    fun hrgb => ?_⟩
  · rw [encsx_eq_sysexFrame]
    simp [sysexFrame]
  · rw [encsx_eq_sysexFrame, hrgb]
    simp [sysexFrame, groupByte_lastGroup_rgb_le]

end Sys2Proof.Machine
end

section
/-! PROOFS, 41_validator.md: which events are the record of a refused value, and that the color path leaves none. -/

namespace Sys2Proof.Machine

@[simp] theorem isRangeError_midi (bytes : List Byte) : isRangeError (.midi bytes) = false := rfl

@[simp] theorem isRangeError_logCcSent (payload : BitVec 28) : isRangeError (.log logCcSentCode payload) = false := rfl

@[simp] theorem isRangeError_logSxSent (payload : BitVec 28) : isRangeError (.log logSxSentCode payload) = false := rfl

@[simp] theorem isRangeError_logSelChanged (payload : BitVec 28) :
    isRangeError (.log logSelChangedCode payload) = false := rfl

/-- A color message and its record are no refusal; that VCC on a nibble leaves these two is `vccOp_nibble` (R65, R72). -/
theorem isRangeError_of_mem_nibbleEvents (cfg : Config) (pair : Byte × Nibble) :
    ∀ e ∈ nibbleEvents cfg pair, isRangeError e = false := by
  simp [nibbleEvents]

theorem isRangeError_of_mem_cccolEvents (cfg : Config) (color : Color) (enabled : Bool) :
    ∀ e ∈ cccolEvents cfg color enabled, isRangeError e = false := by
  intro e he
  cases enabled with
  | false => cases he
  | true =>
    obtain ⟨pair, -, hmem⟩ := List.mem_flatMap.mp he
    exact isRangeError_of_mem_nibbleEvents cfg pair e hmem

theorem isRangeError_of_mem_sxcolEvents (cfg : Config) (color : Color) (enabled : Bool) :
    ∀ e ∈ sxcolEvents cfg color enabled, isRangeError e = false := by
  cases enabled <;> simp [sxcolEvents]

/-- Neither half of SEL refuses a value, and its own record is that of the selection (R78). -/
theorem isRangeError_of_mem_selEvents (cfg : Config) (color : Color) (enabled : Bool) :
    ∀ e ∈ selEvents cfg color enabled, isRangeError e = false := by
  unfold selEvents
  refine List.forall_mem_append.mpr ⟨List.forall_mem_append.mpr ⟨?cccol, ?sxcol⟩, ?record⟩
  case cccol => exact isRangeError_of_mem_cccolEvents cfg color enabled
  case sxcol => exact isRangeError_of_mem_sxcolEvents cfg color enabled
  case record => simp

end Sys2Proof.Machine
end

section
/-! PROOFS, 41_validator.md: the statements of the family, each assembled from the facts above. -/

namespace Sys2Proof.Machine

/-- Settles O32: the events of the two rows are color messages, a frame and success records. -/
theorem colorPathNeverRefusesAValue : Obligations.ColorPathNeverRefusesAValue := by
  intro cfg enabled color
  rw [eventsOf_sel, eventsOf_cccol]
  exact ⟨isRangeError_of_mem_selEvents cfg color enabled, isRangeError_of_mem_cccolEvents cfg color enabled⟩

/-- Settles O25: the two sides of the boundary at 128, and the verdict as bit 7. -/
theorem validatorTestsBitSeven : Obligations.ValidatorTestsBitSeven :=
  fun value => ⟨valid7_of_le value, valid7_of_lt value, valid7_eq_not_bit value⟩

end Sys2Proof.Machine
end

section
/-! PROOFS, 42_transmitter.md: the six commands as emissions, in bit terms. -/

namespace Sys2Proof.Machine

/-- What VCC emits: a message in range and its record, or the error record; the flag is not read (R82). -/
def vccEvents (cfg : Config) (ctrl value : Byte) : List Event :=
  if value.toNat ≤ 127 then [.midi (ccMessage cfg ctrl value), .log logCcSentCode (ctrlValue ctrl value)]
  else [.log logCcRangeErrCode (ctrlValue ctrl value)]

theorem vccEvents_of_le (cfg : Config) (ctrl value : Byte) (h : value.toNat ≤ 127) :
    vccEvents cfg ctrl value = [.midi (ccMessage cfg ctrl value), .log logCcSentCode (ctrlValue ctrl value)] :=
  if_pos h

theorem vccEvents_of_ge (cfg : Config) (ctrl value : Byte) (h : 128 ≤ value.toNat) :
    vccEvents cfg ctrl value = [.log logCcRangeErrCode (ctrlValue ctrl value)] :=
  if_neg (Nat.not_le_of_lt h)

/-- VCC is the emission of its events, from every state (R82). -/
theorem vccOp_eq_emit_vccEvents (cfg : Config) (ctrl value : Byte) (s : State) :
    vccOp cfg ctrl value s = s.emit (vccEvents cfg ctrl value) := by
  obtain ⟨hv, hop⟩ | ⟨hv, hop⟩ := vccOp_cases cfg ctrl value s
  · rw [hop, vccEvents_of_le cfg ctrl value ((valid7_iff value).mp hv)]
  · have hge : 128 ≤ value.toNat := by
      rw [Nat.succ_le_iff, ← Nat.not_le, ← valid7_iff, hv]
      decide
    rw [hop, vccEvents_of_ge cfg ctrl value hge, State.raiseOutOfRange_eq_emit]

@[simp] theorem eventsOf_vcc (cfg : Config) (e : Bool) (ctrl value : Byte) :
    eventsOf cfg e (.vcc ctrl value) = vccEvents cfg ctrl value :=
  congrArg State.trace (vccOp_eq_emit_vccEvents cfg ctrl value (blank e))

/-- On a nibble VCC leaves the two events of a color message (R65, R84 b). -/
theorem vccEvents_nibbleByte (cfg : Config) (pair : Byte × Nibble) :
    vccEvents cfg pair.1 (nibbleByte pair.2) = nibbleEvents cfg pair :=
  vccEvents_of_le cfg pair.1 (nibbleByte pair.2) (nibbleByte_le pair.2)

/-- The two events of a color message in bit terms (R43, R47). -/
theorem nibbleEvents_eq_colorMessage (cfg : Config) (ctrl : Byte) (n : Nibble) :
    nibbleEvents cfg (ctrl, n) = colorMessage cfg ctrl n := by
  rw [nibbleEvents, nibbleByte_eq_append]
  rfl

/-- The twelve events of a color on the CC path in bit terms (R64, R80). -/
theorem cccolEvents_eq_colorMessages (cfg : Config) (color : Color) (e : Bool) :
    cccolEvents cfg color e = if e then colorMessages cfg color else [] := by
  rw [cccolEvents, enccc_eq_extractLsb']
  simp only [List.flatMap_cons, List.flatMap_nil, nibbleEvents_eq_colorMessage, colorMessages, List.append_assoc,
    List.append_nil]

/-- The frame and its record in bit terms (R44, R81). -/
theorem sxcolEvents_eq_colorFrame (cfg : Config) (color : Color) (e : Bool) :
    sxcolEvents cfg color e = if e then [.midi (colorFrame cfg color), .log logSxSentCode color] else [] := by
  rw [sxcolEvents, encsx_eq_colorFrame]

/-- The events of a selection in bit terms (R78). -/
theorem selEvents_eq_colorMessages (cfg : Config) (color : Color) (e : Bool) :
    selEvents cfg color e =
      (if e then colorMessages cfg color ++ [.midi (colorFrame cfg color), .log logSxSentCode color] else [])
        ++ [.log logSelChangedCode 0#28] := by
  rw [selEvents, cccolEvents_eq_colorMessages, sxcolEvents_eq_colorFrame]
  cases e <;> rfl

/-- An emission behind the closed gate leaves the state as it is (R76). -/
theorem State.emit_gated (s : State) (gate : Bool) (es : List Event) :
    s.emit (if gate then es else []) = if gate then { s with trace := s.trace ++ es } else s := by
  cases gate with
  | false => exact s.emit_nil
  | true => rfl

theorem effect_cccol (cfg : Config) (color : Color) (s : State) :
    effect cfg (.cccol color) s = if s.enabled then { s with trace := s.trace ++ colorMessages cfg color } else s := by
  rw [effect, cccolOp_eq_emit, cccolEvents_eq_colorMessages, State.emit_gated]

theorem effect_sxcol (cfg : Config) (color : Color) (s : State) :
    effect cfg (.sxcol color) s =
      if s.enabled then { s with trace := s.trace ++ [.midi (colorFrame cfg color), .log logSxSentCode color] } else s := by
  rw [effect, sxcolOp_eq_emit, sxcolEvents_eq_colorFrame, State.emit_gated]

theorem effect_sel (cfg : Config) (color : Color) (s : State) :
    effect cfg (.sel color) s =
      { s with
        trace := s.trace
          ++ (if s.enabled then colorMessages cfg color ++ [.midi (colorFrame cfg color), .log logSxSentCode color] else [])
          ++ [.log logSelChangedCode 0#28] } := by
  rw [effect, selOp_eq_emit, selEvents_eq_colorMessages, State.emit, List.append_assoc]

end Sys2Proof.Machine
end

section
/-! PROOFS, 42_transmitter.md: the messages of a selection, the counts of the commands' events, and the codes of the records. -/

namespace Sys2Proof.Machine

/-- The messages of an enabled SEL: one CC message for each pair, then the frame (R78). -/
theorem messages_selEvents (cfg : Config) (color : Color) :
    messages (selEvents cfg color true) =
      ((enccc cfg color).map fun pair => ccMessage cfg pair.1 (nibbleByte pair.2)) ++ [encsx cfg color] := by
  simp [selEvents, cccolEvents, sxcolEvents]

@[simp] theorem length_enccc (cfg : Config) (color : Color) : (enccc cfg color).length = 6 := rfl

/-- The nibble is read back from its value byte (R49). -/
theorem setWidth_nibbleByte (n : Nibble) : (nibbleByte n).setWidth 4 = n :=
  BitVec.setWidth_setWidth_of_le n (by decide)

/-- The first six bytes of the frame see the color's low 21 bits alone (R66). -/
theorem take_encsx_rgb (cfg : Config) (color : Color) : (encsx cfg color).take 6 = (encsx cfg (rgb color)).take 6 := by
  simp only [encsx_eq_sysexFrame, sysexFrame, List.take_succ_cons, List.take_zero, extractLsb'_rgb, Nat.reduceAdd,
    Nat.reduceLeDiff]

@[simp] theorem messageCount_append (es es' : List Event) :
    messageCount (es ++ es') = messageCount es + messageCount es' := by
  simp [messageCount]

@[simp] theorem recordCount_append (es es' : List Event) : recordCount (es ++ es') = recordCount es + recordCount es' := by
  simp [recordCount, logRecords]

/-- Each pair of CCCOL is one message (R80). -/
theorem messageCount_nibbleEvents (cfg : Config) (pairs : List (Byte × Nibble)) :
    messageCount (pairs.flatMap (nibbleEvents cfg)) = pairs.length := by
  simp [messageCount]

/-- Each pair of CCCOL is one record (R80). -/
theorem recordCount_nibbleEvents (cfg : Config) (pairs : List (Byte × Nibble)) :
    recordCount (pairs.flatMap (nibbleEvents cfg)) = pairs.length := by
  induction pairs with
  | nil => rfl
  | cons pair rest ih =>
    rw [List.flatMap_cons, recordCount_append, ih, List.length_cons, Nat.add_comm]
    rfl

theorem messageCount_cccolEvents (cfg : Config) (color : Color) : messageCount (cccolEvents cfg color true) = 6 :=
  messageCount_nibbleEvents cfg (enccc cfg color)

theorem recordCount_cccolEvents (cfg : Config) (color : Color) : recordCount (cccolEvents cfg color true) = 6 :=
  recordCount_nibbleEvents cfg (enccc cfg color)

theorem messageCount_sxcolEvents (cfg : Config) (color : Color) : messageCount (sxcolEvents cfg color true) = 1 := rfl

theorem recordCount_sxcolEvents (cfg : Config) (color : Color) : recordCount (sxcolEvents cfg color true) = 1 := rfl

/-- A selection has the messages of its two halves; its own record is none. -/
theorem messageCount_selEvents (cfg : Config) (color : Color) : messageCount (selEvents cfg color true) = 7 := by
  rw [selEvents, messageCount_append, messageCount_append, messageCount_cccolEvents, messageCount_sxcolEvents]
  rfl

/-- A selection has the records of its two halves and its own. -/
theorem recordCount_selEvents (cfg : Config) (color : Color) : recordCount (selEvents cfg color true) = 8 := by
  rw [selEvents, recordCount_append, recordCount_append, recordCount_cccolEvents, recordCount_sxcolEvents]
  rfl

/-- A row other than SETEN leaves the flag (R83, R84 d). -/
theorem enabledAfter_of_ne_seten (cfg : Config) (e : Bool) (i : Instr) (h : ∀ en, i ≠ .seten en) :
    enabledAfter cfg e i = e := by
  obtain ⟨en, hi⟩ | hkeep := seten_or_enabledAfter_eq cfg i
  · exact absurd hi (h en)
  · exact hkeep e

/-- A record of a form the block may emit has one of the four codes (R47). -/
theorem code_of_recordOk (code : Nibble) (payload : BitVec 28) (h : recordOk code payload = true) :
    code = logSelChangedCode ∨ code = logCcSentCode ∨ code = logCcRangeErrCode ∨ code = logSxSentCode := by
  simp only [recordOk, Bool.or_eq_true, Bool.and_eq_true, beq_iff_eq] at h
  obtain (⟨hsel, -⟩ | ⟨hcc | herr, -⟩) | hsx := h
  · exact .inl hsel
  · exact .inr (.inl hcc)
  · exact .inr (.inr (.inl herr))
  · exact .inr (.inr (.inr hsx))

/-- The records that a row emits have one of the four codes (R47, R83). -/
theorem code_of_mem_eventsOf (cfg : Config) (e : Bool) (i : Instr) (code : Nibble) (payload : BitVec 28)
    (h : .log code payload ∈ eventsOf cfg e i) :
    code = logSelChangedCode ∨ code = logCcSentCode ∨ code = logCcRangeErrCode ∨ code = logSxSentCode :=
  code_of_recordOk code payload (List.all_eq_true.mp (eventsOf_ok cfg e i) _ h)

end Sys2Proof.Machine
end

section
/-! PROOFS, 42_transmitter.md: the statements of the family, each assembled from the facts above. -/

namespace Sys2Proof.Machine

/-- Settles O10: both sides of the boundary at 128, from the one emission that VCC is. -/
theorem vccSendsOrRecordsTheRefusal : Obligations.VccSendsOrRecordsTheRefusal := by
  intro ctrl value s
  have hexec : exec (.vcc ctrl value) s = .next (s.emit (vccEvents Config.default ctrl value)) :=
    congrArg Host.Outcome.next (vccOp_eq_emit_vccEvents Config.default ctrl value s)
  refine ⟨fun hle => ?_, fun hge => ?_, fun x => decode_vcc_append x ctrl value,
    fun cfg => vccOp_eq_emit_vccEvents cfg ctrl value s⟩
  · rw [hexec, vccEvents_of_le _ _ _ hle]
    rfl
  · rw [hexec, vccEvents_of_ge _ _ _ hge]
    rfl

/-- Settles O11: the gate, then the loop over the six pairs in bit terms. -/
theorem cccolSendsTheSixMessages : Obligations.CccolSendsTheSixMessages :=
  fun color s => ⟨decode_cccol_word color, congrArg Host.Outcome.next (effect_cccol Config.default color s),
    fun cfg => effect_cccol cfg color s⟩

/-- Settles O12: the gate, then the frame in bit terms and its record. -/
theorem sxcolSendsOneFrame : Obligations.SxcolSendsOneFrame :=
  fun color s => ⟨decode_sxcol_word color, congrArg Host.Outcome.next (effect_sxcol Config.default color s),
    fun cfg => effect_sxcol cfg color s⟩

/-- Settles O13: the two gated halves and the record that is not gated. -/
theorem selSendsBothFormatsThenItsRecord : Obligations.SelSendsBothFormatsThenItsRecord :=
  fun color s => ⟨decode_sel_word color, congrArg Host.Outcome.next (effect_sel Config.default color s),
    fun cfg => effect_sel cfg color s⟩

/-- Settles O29: SEL's events are its parts' by `selEvents`, and VCC on a nibble leaves the events of a color message. -/
theorem selIsItsParts : Obligations.SelIsItsParts := by
  intro cfg enabled color
  constructor
  · rw [eventsOf_sel, eventsOf_cccol, eventsOf_sxcol]
    rfl
  · rw [eventsOf_cccol, cccolEvents, if_pos rfl]
    refine List.flatMap_congr fun pair _ => ?_
    rw [eventsOf_vcc, ← vccEvents_nibbleByte, nibbleByte]

/-- Settles O34: ENCCC does not see the bits above 23, and the frame that SXCOL sends determines all 28. -/
theorem upperColorBitsReachOnlySysex : Obligations.UpperColorBitsReachOnlySysex := by
  intro cfg color other s
  refine ⟨?_, fun h => ?_, take_encsx_rgb cfg color⟩
  · simp only [effect, cccolOp, enccc_rgb]
  · rw [eventsOf_sxcol, eventsOf_sxcol] at h
    have hframe : encsx cfg color = encsx cfg other := Event.midi.inj (List.cons.inj h).left
    exact encsx_injective cfg hframe

/-- Settles O35: the first six messages carry ENCCC's nibbles, and the seventh is ENCSX's frame. -/
theorem selMessagesDetermineTheColor : Obligations.SelMessagesDetermineTheColor := by
  intro cfg color
  rw [eventsOf_sel, messages_selEvents]
  constructor
  · rw [List.take_left' (by simp), List.map_map, ← unenccc_enccc cfg color]
    congr 1
    exact List.map_congr_left fun pair _ => setWidth_nibbleByte pair.2
  · rw [List.getD_append_right _ _ _ _ (by simp)]
    exact unencsx_encsx cfg color

/-- Settles O36: the rows of R83's table, then the pairing and the codes for every command. -/
theorem eventCountsOfEveryCommand : Obligations.EventCountsOfEveryCommand := by
  intro cfg e en color ctrl value
  simp only [eventsOf_sel, eventsOf_cccol, eventsOf_sxcol, eventsOf_vcc]
  refine ⟨⟨rfl, rfl⟩, ?sel, ⟨rfl, rfl⟩, ?cccol, ?sxcol, fun hle => ?sent, fun hge => ?refused,
    enabledAfter_of_ne_seten cfg e _ nofun, fun prm w i h =>
      ⟨paired_eventsOf_of_decodeCommand cfg prm e w i h, code_of_mem_eventsOf cfg e i⟩⟩
  case sel =>
    exact ⟨messageCount_selEvents cfg color, bytesOf_selEvents cfg color, recordCount_selEvents cfg color, rfl, rfl,
      enabledAfter_of_ne_seten cfg e _ nofun⟩
  case cccol =>
    exact ⟨messageCount_cccolEvents cfg color, bytesOf_cccolEvents cfg color, recordCount_cccolEvents cfg color, rfl,
      enabledAfter_of_ne_seten cfg e _ nofun⟩
  case sxcol =>
    exact ⟨messageCount_sxcolEvents cfg color, bytesOf_sxcolEvents cfg color, recordCount_sxcolEvents cfg color, rfl,
      enabledAfter_of_ne_seten cfg e _ nofun⟩
  case sent =>
    rw [vccEvents_of_le cfg ctrl value hle]
    exact ⟨rfl, rfl, rfl⟩
  case refused =>
    rw [vccEvents_of_ge cfg ctrl value hge]
    exact ⟨rfl, rfl, rfl⟩

/-- Settles O8: the word is decoded as SELNONE whatever its operand bits are, and SELNONE answers the state it is run in. -/
theorem selnoneDoesNothing : Obligations.SelnoneDoesNothing :=
  ⟨fun _ => rfl, fun arg rest s hs => step_of_atPort_ok _ rest .selnone s hs (decode_selnone_word arg)⟩

/-- Settles O9: the word is decoded by its last bit, and SETEN writes that bit to the flag. -/
theorem setenWritesTheFlagAlone : Obligations.SetenWritesTheFlagAlone :=
  ⟨fun _ _ => rfl, fun x en rest s hs =>
    step_of_atPort_ok _ rest (.seten en) s hs (decodeCommand_seten Params.default x en)⟩

/-- Settles O30: the gate is read by the two formats alone; VCC's events do not name the flag. -/
theorem closedGateSkipsBothFormats : Obligations.ClosedGateSkipsBothFormats := by
  intro cfg color ctrl value
  rw [eventsOf_cccol, eventsOf_sxcol, eventsOf_sel, eventsOf_vcc, eventsOf_vcc]
  exact ⟨rfl, rfl, rfl, rfl⟩

/-- Settles O41: with nothing in flight, on the bench or at the port, the fetch is done in the state it finds. -/
theorem idleStepChangesNothing : Obligations.IdleStepChangesNothing := by
  intro s hf hb hi
  have hfetch : fetch s = .done s := by simp [fetch, hf, hb, hi]
  rw [step, hfetch]

end Sys2Proof.Machine
end

section
/-! PROOFS, 60_exceptions.md: a run goes on from the flag it has, and a VCC word with a refused value is one step of it. -/

namespace Sys2Proof.Machine

/-- A spec run goes on after a word with a step as the run of the rest from the flag that the step leaves (R9, R31). -/
theorem blockRun_cons_of_blockStep (cfg : Config) (prm : Params) (e e1 : Bool) (w : Word) (rest : List Word)
    (es1 : List Event) (h : blockStep cfg prm e w = some (e1, es1)) :
    blockRun cfg prm e (w :: rest) = (blockRun cfg prm e1 rest).map fun r => (r.1, es1 ++ r.2) := by
  cases hrest : blockRun cfg prm e1 rest <;> simp [blockRun, h, hrest]

/-- A spec run goes on after a run with a result as the run of the rest, whether or not that one has a result (R31, R51). -/
theorem blockRun_append_of_eq_some (cfg : Config) (prm : Params) (e e1 : Bool) (ws ws' : List Word) (es1 : List Event)
    (h : blockRun cfg prm e ws = some (e1, es1)) :
    blockRun cfg prm e (ws ++ ws') = (blockRun cfg prm e1 ws').map fun r => (r.1, es1 ++ r.2) := by
  induction ws generalizing e es1 with
  | nil =>
    obtain ⟨rfl, rfl⟩ := Prod.mk.inj (Option.some.inj h)
    exact Option.map_id'.symm
  | cons w rest ih =>
    obtain ⟨em, es, es', hw, hrest, rfl⟩ := blockRun_cons_eq_some cfg prm e e1 w rest es1 h
    rw [List.cons_append, blockRun_cons_of_blockStep cfg prm e em w _ es hw, ih em es' hrest, Option.map_map]
    simp [Function.comp_def]

/-- A block built with the direct commands reads every command word as the default block does (R5, R75). -/
theorem decodeCommand_of_directCommands (prm : Params) (w : Word) (h : prm.directCommands = true) :
    decodeCommand prm w = decodeCommand Params.default w := by
  obtain ⟨re, dc⟩ := prm
  obtain rfl : dc = true := h
  rfl

/-- VCC leaves the flag, whatever the value is (R82, R97). -/
theorem enabledAfter_vcc (cfg : Config) (e : Bool) (ctrl value : Byte) : enabledAfter cfg e (.vcc ctrl value) = e :=
  enabledAfter_of_ne_seten cfg e _ nofun

/-- A VCC word with a refused value leaves the flag and one error record (R90, R97). -/
theorem blockStep_vcc_of_ge (cfg : Config) (prm : Params) (e : Bool) (x : BitVec 12) (ctrl value : Byte)
    (hdirect : prm.directCommands = true) (hvalue : 128 ≤ value.toNat) :
    blockStep cfg prm e (0x5#4 ++ x ++ ctrl ++ value) = some (e, [.log logCcRangeErrCode (ctrlValue ctrl value)]) := by
  have hdecode : decodeCommand prm (0x5#4 ++ x ++ ctrl ++ value) = .ok (.vcc ctrl value) :=
    (decodeCommand_of_directCommands prm _ hdirect).trans (decode_vcc_append x ctrl value)
  rw [blockStep_of_ok cfg prm e _ _ hdecode, enabledAfter_vcc, eventsOf_vcc, vccEvents_of_ge cfg ctrl value hvalue]

end Sys2Proof.Machine
end

section
/-! PROOFS, 60_exceptions.md: the trace of a run is paired, and the records of a paired trace tell its messages. -/

namespace Sys2Proof.Machine

/-- The trace of a run of command words is paired, as each command's events are (R83). -/
theorem paired_of_blockRun (cfg : Config) (prm : Params) (e e' : Bool) (ws : List Word) (es : List Event)
    (h : blockRun cfg prm e ws = some (e', es)) : paired cfg es = true := by
  induction ws generalizing e es with
  | nil =>
    obtain ⟨-, rfl⟩ := Prod.mk.inj (Option.some.inj h)
    rfl
  | cons w rest ih =>
    obtain ⟨e1, es1, es2, hw, hrest, rfl⟩ := blockRun_cons_eq_some cfg prm e e' w rest es h
    refine paired_append cfg es1 es2 ?_ (ih e1 es2 hrest)
    cases hd : decodeCommand prm w with
    | error r => simp [blockStep_of_error cfg prm e w r hd] at hw
    | ok i =>
      rw [blockStep_of_ok cfg prm e w i hd] at hw
      obtain ⟨-, rfl⟩ := Prod.mk.inj (Option.some.inj hw)
      exact paired_eventsOf_of_decodeCommand cfg prm e w i hd

/-- In a paired trace each message is what the record after it accounts for, and no other record accounts for one (R99). -/
theorem messages_eq_of_paired (cfg : Config) (es : List Event) (h : paired cfg es = true) :
    messages es = (logRecords es).filterMap (messageOfRecord cfg) := by
  induction es using paired.induct with
  | case1 => rfl
  | case2 bytes code payload rest ih =>
    simp only [paired, Bool.and_eq_true, decide_eq_true_eq] at h
    obtain ⟨hrec, hrest⟩ := h
    simp [hrec, ih hrest]
  | case3 bytes => cases h
  | case4 bytes bytes' rest => cases h
  | case5 code payload rest ih =>
    simp only [paired, Bool.and_eq_true, decide_eq_true_eq] at h
    obtain ⟨hrec, hrest⟩ := h
    simp [hrec, ih hrest]

end Sys2Proof.Machine
end

section
/-! PROOFS, 60_exceptions.md: the statements of the family, each assembled from the facts above. -/

namespace Sys2Proof.Machine

/-- Settles O37: the refused VCC is one step that leaves the flag, between the run before it and the run after it. -/
theorem refusedValueDoesNotDisturbARun : Obligations.RefusedValueDoesNotDisturbARun := by
  intro cfg prm e e1 es1 before after x ctrl value hdirect hvalue hbefore
  have hstep := blockStep_vcc_of_ge cfg prm e1 x ctrl value hdirect hvalue
  rw [blockRun_append_of_eq_some cfg prm e e1 before _ es1 hbefore,
    blockRun_cons_of_blockStep cfg prm e1 e1 _ after _ hstep, Option.map_map]
  rfl

/-- Settles O49: a run leaves a paired trace, and the records of a paired trace tell its messages. -/
theorem logTellsEveryMessage : Obligations.LogTellsEveryMessage :=
  fun cfg prm e e' ws es h => messages_eq_of_paired cfg es (paired_of_blockRun cfg prm e e' ws es h)

end Sys2Proof.Machine
end

section
/-! PROOFS, 70_reset_and_hazards.md: a reset that the host presents between commands, and a host that does not keep a waiting
command. -/

namespace Sys2Proof.Machine

/-- A step on a reset, with nothing in flight and nothing on the bench, takes the reset edge (R105). -/
theorem step_of_reset (rest : List HostInput) (s : State) (hf : s.signal.flight = none) (hb : s.bench = none)
    (hi : s.inputs = .reset :: rest) : step s = .next { s with inputs := rest }.resetEdge := by
  have hfetch : fetch s = .done { s with inputs := rest }.resetEdge := by simp [fetch, hf, hb, hi]
  rw [step, hfetch]

/-- A waiting command is withdrawn exactly where the host presents nothing or another word (R110). -/
theorem withdrawn_iff_of_waiting (i : PortsIn) (s : State) (w : Word) (hw : s.signal.waiting = some w) :
    withdrawn s i = true ↔ i.cmdValid = false ∨ i.cmd ≠ w := by
  cases hv : i.cmdValid <;> simp [withdrawn, hw, hv]

/-- The host's part of the handshake is looked at before reset and before all else in a cycle (R110, U9). -/
theorem cycle_of_withdrawn (i : PortsIn) (p : Pace) (s : State) (h : withdrawn s i = true) :
    cycle i p s = .refused (.commandWithdrawn i.cmd) := by
  rw [cycle, if_pos h]

/-- Settles O43: the step takes the reset edge, which keeps only the rest of the host's list and the cycle count. -/
theorem resetStepLeavesTheResetState : Obligations.ResetStepLeavesTheResetState :=
  fun rest s hf hb hi => step_of_reset rest s hf hb hi

/-- Settles O59: a command that is not presented again is withdrawn, and then the cycle is refused. -/
theorem withdrawnCommandIsRefused : Obligations.WithdrawnCommandIsRefused :=
  fun i p s w hw h => cycle_of_withdrawn i p s ((withdrawn_iff_of_waiting i s w hw).mpr h)

end Sys2Proof.Machine
end
